-- ==== Sys2Proof/Word.lean ====
section
/-! DEFINITION. The widths of the machine (spec/00_scope.md R5, R6): words, bytes, and the fields an instruction word is cut into. -/

namespace Sys2Proof

/-- XLEN = ILEN = 32: a general register, an address, the pc, an instruction (R5). A word is a bit pattern; `toNat`
is the spec's `u`, `toInt` its `s` (R6). -/
abbrev Word := BitVec 32

/-- One byte of the byte-addressed memory (R21). -/
abbrev Byte := BitVec 8

/-- A register index: the 4-bit fields `rd`, `rs1`, `rs2` (R11, R52). -/
abbrev Reg := BitVec 4

/-- The immediate field `inst[15:0]` of format I (R53). -/
abbrev Imm16 := BitVec 16

/-- The offset field `inst[26:0]` of format B, a signed count of words (R54, R59). -/
abbrev Off27 := BitVec 27

end Sys2Proof
end

