-- ==== Sys2Proof/Config.lean ====
section
/-! DEFINITION. The implementation parameters of spec/00_scope.md R5: the ones the spec fixes as constants, and the ones
it leaves OPEN. MEM_SIZE is OPEN too and stands in State (log entry 1); MAX_CYCLES is an argument of the host's run. -/

namespace Sys2Proof

/-- What DIV0 gives for a dividend: `div0(a) -> (q, r)` (R5). -/
structure QuotRem where
  /-- The quotient `div` writes. -/
  q : Word
  /-- The remainder `mod` writes. -/
  r : Word
deriving DecidableEq, Repr, Inhabited

namespace Config

/-- DIV0 (R5, R84, R85, U1): the result of `div` and `mod` when the divisor is 0, a function of the dividend. A FREE
VALUE: it has no body, so nothing can be proved of it, and a statement holds whatever it is. DESIGN CHOICE of form,
log entry 2; safe. -/
opaque div0 : Word → QuotRem

/-- LINK_REG = 15 (`ra`), written by `call` and read by `ret` (R5, D11). -/
def linkReg : Reg := 15

/-- RESET_PC = 0 (R5, D20). -/
def resetPc : Word := 0

/-- LOAD_BASE = 0: the byte address of word 0 of the program image (R5, D19). -/
def loadBase : Nat := 0

/-- The width of an instruction in bytes, which the pc advances by (R15, R50). -/
def instrBytes : Word := 4

/-- The values MEM_SIZE may take (R5, D16): a multiple of 4 with 4 <= MEM_SIZE <= 2^32. -/
abbrev LegalMemSize (n : Nat) : Prop := n % 4 = 0 ∧ 4 ≤ n ∧ n ≤ 2 ^ 32

/-- The MEM_SIZE of `State.reset`. DESIGN CHOICE, unsafe (log entry 1): the spec leaves MEM_SIZE OPEN; 4096 is the size
its examples use. -/
def exampleMemSize : Nat := 4096

end Config

end Sys2Proof
end

