-- ==== Sys2Proof/Machine/State.lean ====
section
/-! DEFINITION. The state of the machine (spec/10_state.md R10, R18), the faults it records (spec/60_exceptions.md R160),
how a run ends (spec/50_core_units.md R142), and the state after reset (R23). -/

namespace Sys2Proof.Machine

/-- What an access to memory is for: the `kind` of a memory fault (R18). -/
inductive AccessKind where
  /-- An instruction fetch, kind 0. -/
  | fetch
  /-- The data access of `ld`, kind 1. -/
  | load
  /-- The data access of `st`, kind 2. -/
  | store
deriving DecidableEq, Repr

/-- The complete list of synchronous faults (R160) with what `status` records of each. A fault is TAKEN: it becomes part
of the next state (`State.takeFault`), it is not an outcome of the model. -/
inductive FaultCause where
  /-- Code 1: a word whose opcode is 21 to 30 (R161); records the instruction word. -/
  | decodeUnknownOpcode (word : Word)
  /-- Code 2: a reserved pattern inside an assigned opcode (R162); records the instruction word. -/
  | decodeReserved (word : Word)
  /-- Code 3: an access whose address is not a multiple of 4 (R163); records kind and byte address. -/
  | memUnaligned (kind : AccessKind) (addr : Word)
  /-- Code 4: an aligned access beyond MEM_SIZE (R164); records kind and byte address. -/
  | memOutOfBounds (kind : AccessKind) (addr : Word)
deriving DecidableEq, Repr

/-- The control unit's state: `Running`, `Halted`, `Faulted(reason, info)` (R18). -/
inductive Status where
  /-- The clock takes the next instruction. -/
  | running
  /-- `hlt` executed (R121); terminal, the one successful end (R168). -/
  | halted
  /-- A fault was taken (R165); terminal, a failure (R168). -/
  | faulted (cause : FaultCause)
deriving DecidableEq, Repr

/-- The two condition flags (R17). -/
structure Flags where
  /-- `flags.E`: equal. -/
  e : Bool
  /-- `flags.GT`: greater than, signed. -/
  gt : Bool
deriving DecidableEq, Repr

/-- The memory array as address and byte pairs in canonical form (`Memory.wf`); an address that is not listed reads as
`Memory.unlisted`. -/
abbrev Memory := List Host.Cell

/-- What a byte of memory that nothing has written reads as: 0, the reset value R23 gives. -/
def Memory.unlisted : Byte := 0

/-- The canonical form: addresses strictly rising, and no entry equal to what an unlisted address reads as. -/
abbrev Memory.wf (m : Memory) : Prop := m.Pairwise (fun c d => c.1 < d.1) ∧ ∀ c ∈ m, c.2 ≠ Memory.unlisted

/-- The whole state of the machine (R10), and the OPEN parameter MEM_SIZE (R5). -/
structure State where
  /-- `x[0]` to `x[15]` (R11). -/
  regs : Vector Word 16
  /-- The byte address of the instruction being executed (R14). -/
  pc : Word
  /-- `flags.E` and `flags.GT` (R17). -/
  flags : Flags
  /-- The control unit's state (R18). -/
  status : Status
  /-- The bytes 0 to MEM_SIZE - 1 (R21). -/
  mem : Memory
  /-- MEM_SIZE, in bytes (R5). A parameter: no step writes it. The model's own field, log entry 1. -/
  memSize : Nat
  /-- The steps taken from `Running` since reset (R19). -/
  cycles : Nat
deriving DecidableEq, Repr

/-- Why a step does not exist. These are not the spec's faults (`FaultCause`), which are states. -/
inductive Fault where
  /-- Raised by `step` only, when `status` is `Halted`: no step leaves a terminal state (R142, U11). Safe. -/
  | halted
  /-- Raised by `step` only, when `status` is `Faulted`: no step leaves a terminal state (R142, U11); it surfaces the
  terminal reason (R165). Safe. -/
  | faulted (cause : FaultCause)
deriving DecidableEq, Repr

/-- Why the model gives an instruction no meaning. -/
inductive Refusal where
  /-- Would be raised by an arm of `exec` whose instruction has no meaning yet; no arm of this model does. Safe. -/
  | notModelled (mnemonic : String)
deriving DecidableEq, Repr

/-- The machine right after reset with a memory of `memSize` bytes, before any program is loaded: every value as R23 and
R190 give it. -/
def State.resetSized (memSize : Nat) : State where
  regs := Vector.replicate 16 0
  pc := Config.resetPc
  flags := ⟨false, false⟩
  status := .running
  mem := []
  memSize := memSize
  cycles := 0

/-- The machine right after reset (R23, R190). Its MEM_SIZE is the model's choice, log entry 1. -/
def State.reset : State := State.resetSized Config.exampleMemSize

end Sys2Proof.Machine
end

