-- ==== Sys2Proof/Machine/Alu.lean ====
section
/-! DEFINITION. The ALU's functions (spec/50_core_units.md R137): pure, total, never signalling an error. -/

namespace Sys2Proof.Machine

/-- ADD (R81): modulo 2^32. -/
def aluAdd (a b : Word) : Word := a + b

/-- SUB (R82): modulo 2^32, the first source is the minuend. -/
def aluSub (a b : Word) : Word := a - b

/-- MUL (R83): `trunc_32(s(a) * s(b))`. -/
def aluMul (a b : Word) : Word := BitVec.ofInt 32 (a.toInt * b.toInt)

/-- DIV (R84): the quotient rounded toward zero, wrapped to 32 bits; the free value `div0(a).q` when `b = 0`. -/
def aluDiv (a b : Word) : Word :=
  if b = 0 then (Config.div0 a).q else BitVec.ofInt 32 (a.toInt.tdiv b.toInt)

/-- MOD (R85): the remainder of the division of R84; the free value `div0(a).r` when `b = 0`. -/
def aluMod (a b : Word) : Word :=
  if b = 0 then (Config.div0 a).r else BitVec.ofInt 32 (a.toInt - b.toInt * a.toInt.tdiv b.toInt)

/-- AND (R91). -/
def aluAnd (a b : Word) : Word := a &&& b

/-- OR (R92). -/
def aluOr (a b : Word) : Word := a ||| b

/-- NOT (R93): of the second operand. -/
def aluNot (b : Word) : Word := ~~~b

/-- MOV (R94): the second operand. -/
def aluMov (b : Word) : Word := b

/-- `sh = u(b[4:0])`: bits 31:5 of the second operand are ignored (R95, D12). -/
def shiftAmount (b : Word) : Nat := (b.extractLsb' 0 5).toNat

/-- LSL (R95): zeros enter at bit 0. -/
def aluLsl (a b : Word) : Word := a <<< shiftAmount b

/-- LSR (R96): zeros enter at bit 31. -/
def aluLsr (a b : Word) : Word := a >>> shiftAmount b

/-- ASR (R97): copies of `a[31]` enter at bit 31. -/
def aluAsr (a b : Word) : Word := a.sshiftRight (shiftAmount b)

end Sys2Proof.Machine
end

