-- ==== Sys2Proof/Machine/Flags.lean ====
section
/-! DEFINITION. The flag computations (spec/42_compare.md R100, R101; the ALU outputs `eq`, `gt`, Z, N, V of
spec/50_core_units.md R137). Only `cmp` latches flags (spec/10_state.md R17). -/

namespace Sys2Proof.Machine

/-- `eq`: equality of the 32-bit patterns (R100). -/
def compareEq (a b : Word) : Bool := a == b

/-- `gt`: the signed comparison of the exact integer values (R100, D31). -/
def compareGt (a b : Word) : Bool := decide (a.toInt > b.toInt)

/-- What `cmp` writes: both flags, together (R100). -/
def compareFlags (a b : Word) : Flags := ⟨compareEq a b, compareGt a b⟩

/-- Z of `a - b` (R101). -/
def subZero (a b : Word) : Bool := a - b == 0

/-- N of `a - b`: bit 31 of the difference (R101). -/
def subNegative (a b : Word) : Bool := (a - b).getLsbD 31

/-- V of `a - b`, the signed-overflow bit: `(a[31] != b[31]) and (d[31] != a[31])` (R101). -/
def subOverflow (a b : Word) : Bool := (a.getLsbD 31 != b.getLsbD 31) && ((a - b).getLsbD 31 != a.getLsbD 31)

end Sys2Proof.Machine
end

