-- ==== Sys2Proof/Syntax.lean ====
section
/-! DEFINITION. The instruction set as syntax: one constructor per row of spec/opcode_table.json (65 rows, 22 instructions;
spec/30_encoding.md R51 to R60). -/

namespace Sys2Proof

/-- One decoded instruction. `…R` is the format R row of an ALU opcode; `…I`, `…u`, `…h` are its format I rows with
modifier 00, 01, 10, so that the constructor and `imm` together keep `modifier` and `imm16` (R66). A field the hardware
ignores (R63) is no argument. A format B constructor holds the decoded byte offset `boff` (R59, R64), which
`Instr.wf` (WellFormed.lean) holds to what `off27` can give. -/
inductive Instr where
  /-- `add`, format R, opcode 0 (R81). -/
  | addR (rd rs1 rs2 : Reg)
  /-- `add`, format I, modifier 00, opcode 0 (R81). -/
  | addI (rd rs1 : Reg) (imm : Imm16)
  /-- `addu`, format I, modifier 01, opcode 0 (R81). -/
  | addu (rd rs1 : Reg) (imm : Imm16)
  /-- `addh`, format I, modifier 10, opcode 0 (R81). -/
  | addh (rd rs1 : Reg) (imm : Imm16)
  /-- `sub`, format R, opcode 1 (R82). -/
  | subR (rd rs1 rs2 : Reg)
  /-- `sub`, format I, modifier 00, opcode 1 (R82). -/
  | subI (rd rs1 : Reg) (imm : Imm16)
  /-- `subu`, format I, modifier 01, opcode 1 (R82). -/
  | subu (rd rs1 : Reg) (imm : Imm16)
  /-- `subh`, format I, modifier 10, opcode 1 (R82). -/
  | subh (rd rs1 : Reg) (imm : Imm16)
  /-- `mul`, format R, opcode 2 (R83). -/
  | mulR (rd rs1 rs2 : Reg)
  /-- `mul`, format I, modifier 00, opcode 2 (R83). -/
  | mulI (rd rs1 : Reg) (imm : Imm16)
  /-- `mulu`, format I, modifier 01, opcode 2 (R83). -/
  | mulu (rd rs1 : Reg) (imm : Imm16)
  /-- `mulh`, format I, modifier 10, opcode 2 (R83). -/
  | mulh (rd rs1 : Reg) (imm : Imm16)
  /-- `div`, format R, opcode 3 (R84). -/
  | divR (rd rs1 rs2 : Reg)
  /-- `div`, format I, modifier 00, opcode 3 (R84). -/
  | divI (rd rs1 : Reg) (imm : Imm16)
  /-- `divu`, format I, modifier 01, opcode 3 (R84). -/
  | divu (rd rs1 : Reg) (imm : Imm16)
  /-- `divh`, format I, modifier 10, opcode 3 (R84). -/
  | divh (rd rs1 : Reg) (imm : Imm16)
  /-- `mod`, format R, opcode 4 (R85). -/
  | modR (rd rs1 rs2 : Reg)
  /-- `mod`, format I, modifier 00, opcode 4 (R85). -/
  | modI (rd rs1 : Reg) (imm : Imm16)
  /-- `modu`, format I, modifier 01, opcode 4 (R85). -/
  | modu (rd rs1 : Reg) (imm : Imm16)
  /-- `modh`, format I, modifier 10, opcode 4 (R85). -/
  | modh (rd rs1 : Reg) (imm : Imm16)
  /-- `cmp`, format R, opcode 5 (R100). -/
  | cmpR (rs1 rs2 : Reg)
  /-- `cmp`, format I, modifier 00, opcode 5 (R100). -/
  | cmpI (rs1 : Reg) (imm : Imm16)
  /-- `cmpu`, format I, modifier 01, opcode 5 (R100). -/
  | cmpu (rs1 : Reg) (imm : Imm16)
  /-- `cmph`, format I, modifier 10, opcode 5 (R100). -/
  | cmph (rs1 : Reg) (imm : Imm16)
  /-- `and`, format R, opcode 6 (R91). -/
  | andR (rd rs1 rs2 : Reg)
  /-- `and`, format I, modifier 00, opcode 6 (R91). -/
  | andI (rd rs1 : Reg) (imm : Imm16)
  /-- `andu`, format I, modifier 01, opcode 6 (R91). -/
  | andu (rd rs1 : Reg) (imm : Imm16)
  /-- `andh`, format I, modifier 10, opcode 6 (R91). -/
  | andh (rd rs1 : Reg) (imm : Imm16)
  /-- `or`, format R, opcode 7 (R92). -/
  | orR (rd rs1 rs2 : Reg)
  /-- `or`, format I, modifier 00, opcode 7 (R92). -/
  | orI (rd rs1 : Reg) (imm : Imm16)
  /-- `oru`, format I, modifier 01, opcode 7 (R92). -/
  | oru (rd rs1 : Reg) (imm : Imm16)
  /-- `orh`, format I, modifier 10, opcode 7 (R92). -/
  | orh (rd rs1 : Reg) (imm : Imm16)
  /-- `not`, format R, opcode 8 (R93). -/
  | notR (rd rs2 : Reg)
  /-- `not`, format I, modifier 00, opcode 8 (R93). -/
  | notI (rd : Reg) (imm : Imm16)
  /-- `notu`, format I, modifier 01, opcode 8 (R93). -/
  | notu (rd : Reg) (imm : Imm16)
  /-- `noth`, format I, modifier 10, opcode 8 (R93). -/
  | noth (rd : Reg) (imm : Imm16)
  /-- `mov`, format R, opcode 9 (R94). -/
  | movR (rd rs2 : Reg)
  /-- `mov`, format I, modifier 00, opcode 9 (R94). -/
  | movI (rd : Reg) (imm : Imm16)
  /-- `movu`, format I, modifier 01, opcode 9 (R94). -/
  | movu (rd : Reg) (imm : Imm16)
  /-- `movh`, format I, modifier 10, opcode 9 (R94). -/
  | movh (rd : Reg) (imm : Imm16)
  /-- `lsl`, format R, opcode 10 (R95). -/
  | lslR (rd rs1 rs2 : Reg)
  /-- `lsl`, format I, modifier 00, opcode 10 (R95). -/
  | lslI (rd rs1 : Reg) (imm : Imm16)
  /-- `lslu`, format I, modifier 01, opcode 10 (R95). -/
  | lslu (rd rs1 : Reg) (imm : Imm16)
  /-- `lslh`, format I, modifier 10, opcode 10 (R95). -/
  | lslh (rd rs1 : Reg) (imm : Imm16)
  /-- `lsr`, format R, opcode 11 (R96). -/
  | lsrR (rd rs1 rs2 : Reg)
  /-- `lsr`, format I, modifier 00, opcode 11 (R96). -/
  | lsrI (rd rs1 : Reg) (imm : Imm16)
  /-- `lsru`, format I, modifier 01, opcode 11 (R96). -/
  | lsru (rd rs1 : Reg) (imm : Imm16)
  /-- `lsrh`, format I, modifier 10, opcode 11 (R96). -/
  | lsrh (rd rs1 : Reg) (imm : Imm16)
  /-- `asr`, format R, opcode 12 (R97). -/
  | asrR (rd rs1 rs2 : Reg)
  /-- `asr`, format I, modifier 00, opcode 12 (R97). -/
  | asrI (rd rs1 : Reg) (imm : Imm16)
  /-- `asru`, format I, modifier 01, opcode 12 (R97). -/
  | asru (rd rs1 : Reg) (imm : Imm16)
  /-- `asrh`, format I, modifier 10, opcode 12 (R97). -/
  | asrh (rd rs1 : Reg) (imm : Imm16)
  /-- `ld`, format I, modifier 00, opcode 14 (R116). -/
  | ld (rd rs1 : Reg) (imm : Imm16)
  /-- `ldu`, format I, modifier 01, opcode 14 (R116). -/
  | ldu (rd rs1 : Reg) (imm : Imm16)
  /-- `ldh`, format I, modifier 10, opcode 14 (R116). -/
  | ldh (rd rs1 : Reg) (imm : Imm16)
  /-- `st`, format I, modifier 00, opcode 15 (R117). -/
  | st (rd rs1 : Reg) (imm : Imm16)
  /-- `stu`, format I, modifier 01, opcode 15 (R117). -/
  | stu (rd rs1 : Reg) (imm : Imm16)
  /-- `sth`, format I, modifier 10, opcode 15 (R117). -/
  | sth (rd rs1 : Reg) (imm : Imm16)
  /-- `beq`, format B, opcode 16 (R106). -/
  | beq (boff : Word)
  /-- `bgt`, format B, opcode 17 (R107). -/
  | bgt (boff : Word)
  /-- `b`, format B, opcode 18 (R108). -/
  | b (boff : Word)
  /-- `call`, format B, opcode 19 (R109). -/
  | call (boff : Word)
  /-- `nop`, format Z, opcode 13 (R120). -/
  | nop
  /-- `ret`, format Z, opcode 20 (R110). -/
  | ret
  /-- `hlt`, format Z, opcode 31 (R121). -/
  | hlt
deriving DecidableEq, Repr

end Sys2Proof
end

