-- ==== Sys2Proof/WellFormed.lean ====
section
/-! DEFINITION. Which instructions as syntax are instructions of the machine: the check on the decoded branch offset
(spec/30_encoding.md R59). Register indices and immediates need none: their types are the encoding's fields (R56). -/

namespace Sys2Proof

/-- `boff` counts whole instructions: it is a multiple of 4 (R59). -/
def boffAligned (boff : Word) : Bool := boff.toNat % 4 == 0

/-- `boff` lies in the range R59 gives, -268435456 to +268435452 bytes. -/
def boffInRange (boff : Word) : Bool := decide (-268435456 ≤ boff.toInt) && decide (boff.toInt ≤ 268435452)

/-- `boff` is one of the byte offsets an `off27` decodes to (R59). -/
def boffWf (boff : Word) : Bool := boffAligned boff && boffInRange boff

/-- The instruction has an encoding (R60). -/
def Instr.wf : Instr → Bool
  | .addR _ _ _ => true
  | .addI _ _ _ => true
  | .addu _ _ _ => true
  | .addh _ _ _ => true
  | .subR _ _ _ => true
  | .subI _ _ _ => true
  | .subu _ _ _ => true
  | .subh _ _ _ => true
  | .mulR _ _ _ => true
  | .mulI _ _ _ => true
  | .mulu _ _ _ => true
  | .mulh _ _ _ => true
  | .divR _ _ _ => true
  | .divI _ _ _ => true
  | .divu _ _ _ => true
  | .divh _ _ _ => true
  | .modR _ _ _ => true
  | .modI _ _ _ => true
  | .modu _ _ _ => true
  | .modh _ _ _ => true
  | .cmpR _ _ => true
  | .cmpI _ _ => true
  | .cmpu _ _ => true
  | .cmph _ _ => true
  | .andR _ _ _ => true
  | .andI _ _ _ => true
  | .andu _ _ _ => true
  | .andh _ _ _ => true
  | .orR _ _ _ => true
  | .orI _ _ _ => true
  | .oru _ _ _ => true
  | .orh _ _ _ => true
  | .notR _ _ => true
  | .notI _ _ => true
  | .notu _ _ => true
  | .noth _ _ => true
  | .movR _ _ => true
  | .movI _ _ => true
  | .movu _ _ => true
  | .movh _ _ => true
  | .lslR _ _ _ => true
  | .lslI _ _ _ => true
  | .lslu _ _ _ => true
  | .lslh _ _ _ => true
  | .lsrR _ _ _ => true
  | .lsrI _ _ _ => true
  | .lsru _ _ _ => true
  | .lsrh _ _ _ => true
  | .asrR _ _ _ => true
  | .asrI _ _ _ => true
  | .asru _ _ _ => true
  | .asrh _ _ _ => true
  | .ld _ _ _ => true
  | .ldu _ _ _ => true
  | .ldh _ _ _ => true
  | .st _ _ _ => true
  | .stu _ _ _ => true
  | .sth _ _ _ => true
  | .beq boff => boffWf boff
  | .bgt boff => boffWf boff
  | .b boff => boffWf boff
  | .call boff => boffWf boff
  | .nop => true
  | .ret => true
  | .hlt => true

end Sys2Proof
end

