-- ==== Sys2Proof/Decode.lean ====
section
/-! DEFINITION. Decoding and encoding (spec/30_encoding.md): the fields R56, the decoder R64 over the opcode map R60, the
ignored bits R63, the encoder (formats R52 to R55), and the byte order of an instruction word (spec/20_memory.md R31). -/

namespace Sys2Proof

/-! ### Byte order (R31) -/

/-- Byte `k` of a word, the one at address `a + k` of the word at `a`: bits `8k+7 : 8k` (R31). -/
def byteOf (w : Word) (k : Nat) : Byte := w.extractLsb' (8 * k) 8

/-- The word whose bytes, lowest address first, are `b0 b1 b2 b3` (R31, R36). -/
def wordOfBytes (b0 b1 b2 b3 : Byte) : Word := b3 ++ b2 ++ b1 ++ b0

/-! ### Fields (R56) -/

/-- `opcode = inst[31:27]`. -/
def fieldOpcode (w : Word) : BitVec 5 := w.extractLsb' 27 5

/-- `I = inst[26]`. -/
def fieldI (w : Word) : Bool := w.getLsbD 26

/-- `rd = inst[25:22]`. -/
def fieldRd (w : Word) : Reg := w.extractLsb' 22 4

/-- `rs1 = inst[21:18]`. -/
def fieldRs1 (w : Word) : Reg := w.extractLsb' 18 4

/-- `rs2 = inst[17:14]`. -/
def fieldRs2 (w : Word) : Reg := w.extractLsb' 14 4

/-- `modifier = inst[17:16]`. -/
def fieldModifier (w : Word) : BitVec 2 := w.extractLsb' 16 2

/-- `imm16 = inst[15:0]`. -/
def fieldImm16 (w : Word) : Imm16 := w.extractLsb' 0 16

/-- `off27 = inst[26:0]`. -/
def fieldOff27 (w : Word) : Off27 := w.extractLsb' 0 27

/-- The decoded byte offset, `boff = sext_32(off27) << 2` (R59). -/
def boffOf (off : Off27) : Word := off.signExtend 32 <<< 2

/-- The offset field that decodes to a well-formed `boff`: its bits 28:2 (R59). -/
def off27Of (boff : Word) : Off27 := boff.extractLsb' 2 27

/-! ### The decoder (R64) -/

/-- What decoding a word answers: exactly one of these (R64). -/
inductive Decoded where
  /-- An instruction of R60 with its fields. -/
  | instr (i : Instr)
  /-- `DecodeUnknownOpcode(inst)` (R61). -/
  | unknownOpcode (inst : Word)
  /-- `DecodeReserved(inst)` (R62). -/
  | reserved (inst : Word)
deriving DecidableEq, Repr

/-- The three format I rows of an opcode, by the modifier; modifier 0b11 is reserved (R57, R62). -/
def decodeImm (w : Word) (i u h : Imm16 → Instr) : Decoded :=
  match (fieldModifier w).toNat with
  | 0 => .instr (i (fieldImm16 w))
  | 1 => .instr (u (fieldImm16 w))
  | 2 => .instr (h (fieldImm16 w))
  | _ => .reserved w

/-- An opcode with formats R and I, told apart by the I bit (R51). -/
def decodeAlu (w : Word) (r : Reg → Instr) (i u h : Imm16 → Instr) : Decoded :=
  if fieldI w then decodeImm w i u h else .instr (r (fieldRs2 w))

/-- An opcode with format I only, `ld` and `st`: reserved with the I bit clear (R62). -/
def decodeImmOnly (w : Word) (i u h : Imm16 → Instr) : Decoded :=
  if fieldI w then decodeImm w i u h else .reserved w

/-- The decoder: total on all words, reading no state (R50, R60, R64). -/
def decode (w : Word) : Decoded :=
  let rd := fieldRd w
  let rs1 := fieldRs1 w
  let boff := boffOf (fieldOff27 w)
  match (fieldOpcode w).toNat with
  | 0 => decodeAlu w (.addR rd rs1) (.addI rd rs1) (.addu rd rs1) (.addh rd rs1)
  | 1 => decodeAlu w (.subR rd rs1) (.subI rd rs1) (.subu rd rs1) (.subh rd rs1)
  | 2 => decodeAlu w (.mulR rd rs1) (.mulI rd rs1) (.mulu rd rs1) (.mulh rd rs1)
  | 3 => decodeAlu w (.divR rd rs1) (.divI rd rs1) (.divu rd rs1) (.divh rd rs1)
  | 4 => decodeAlu w (.modR rd rs1) (.modI rd rs1) (.modu rd rs1) (.modh rd rs1)
  | 5 => decodeAlu w (.cmpR rs1) (.cmpI rs1) (.cmpu rs1) (.cmph rs1)
  | 6 => decodeAlu w (.andR rd rs1) (.andI rd rs1) (.andu rd rs1) (.andh rd rs1)
  | 7 => decodeAlu w (.orR rd rs1) (.orI rd rs1) (.oru rd rs1) (.orh rd rs1)
  | 8 => decodeAlu w (.notR rd) (.notI rd) (.notu rd) (.noth rd)
  | 9 => decodeAlu w (.movR rd) (.movI rd) (.movu rd) (.movh rd)
  | 10 => decodeAlu w (.lslR rd rs1) (.lslI rd rs1) (.lslu rd rs1) (.lslh rd rs1)
  | 11 => decodeAlu w (.lsrR rd rs1) (.lsrI rd rs1) (.lsru rd rs1) (.lsrh rd rs1)
  | 12 => decodeAlu w (.asrR rd rs1) (.asrI rd rs1) (.asru rd rs1) (.asrh rd rs1)
  | 13 => .instr .nop
  | 14 => decodeImmOnly w (.ld rd rs1) (.ldu rd rs1) (.ldh rd rs1)
  | 15 => decodeImmOnly w (.st rd rs1) (.stu rd rs1) (.sth rd rs1)
  | 16 => .instr (.beq boff)
  | 17 => .instr (.bgt boff)
  | 18 => .instr (.b boff)
  | 19 => .instr (.call boff)
  | 20 => .instr .ret
  | 31 => .instr .hlt
  | _ => .unknownOpcode w

/-- The host's view of the decoder: the table's word laid out as memory holds it (R31), read back and decoded. Every
instruction is one 32-bit word, so bits above `nbits` are 0. -/
def decodeTableWord (nbits w : Nat) : Option Instr :=
  let v : Word := BitVec.ofNat 32 (w % 2 ^ nbits)
  match decode (wordOfBytes (byteOf v 0) (byteOf v 1) (byteOf v 2) (byteOf v 3)) with
  | .instr i => some i
  | .unknownOpcode _ => none
  | .reserved _ => none

/-! ### The encoder (R52 to R55), canonical words only (R63) -/

/-- `opcode<<27 | 0<<26 | rd<<22 | rs1<<18 | rs2<<14` (R52). -/
def encodeR (op : BitVec 5) (rd rs1 rs2 : Reg) : Word := op ++ 0#1 ++ rd ++ rs1 ++ rs2 ++ 0#14

/-- `opcode<<27 | 1<<26 | rd<<22 | rs1<<18 | modifier<<16 | imm16` (R53). -/
def encodeI (op : BitVec 5) (rd rs1 : Reg) (modifier : BitVec 2) (imm : Imm16) : Word :=
  op ++ 1#1 ++ rd ++ rs1 ++ modifier ++ imm

/-- `opcode<<27 | off27` (R54). -/
def encodeB (op : BitVec 5) (boff : Word) : Word := op ++ off27Of boff

/-- `opcode<<27` (R55). -/
def encodeZ (op : BitVec 5) : Word := op ++ 0#27

/-- The canonical word of an instruction: the formats R52 to R55 with the opcodes of R60, every ignored bit 0 (R63). -/
def encode : Instr → Word
  | .addR rd rs1 rs2 => encodeR 0 rd rs1 rs2
  | .addI rd rs1 imm => encodeI 0 rd rs1 0 imm
  | .addu rd rs1 imm => encodeI 0 rd rs1 1 imm
  | .addh rd rs1 imm => encodeI 0 rd rs1 2 imm
  | .subR rd rs1 rs2 => encodeR 1 rd rs1 rs2
  | .subI rd rs1 imm => encodeI 1 rd rs1 0 imm
  | .subu rd rs1 imm => encodeI 1 rd rs1 1 imm
  | .subh rd rs1 imm => encodeI 1 rd rs1 2 imm
  | .mulR rd rs1 rs2 => encodeR 2 rd rs1 rs2
  | .mulI rd rs1 imm => encodeI 2 rd rs1 0 imm
  | .mulu rd rs1 imm => encodeI 2 rd rs1 1 imm
  | .mulh rd rs1 imm => encodeI 2 rd rs1 2 imm
  | .divR rd rs1 rs2 => encodeR 3 rd rs1 rs2
  | .divI rd rs1 imm => encodeI 3 rd rs1 0 imm
  | .divu rd rs1 imm => encodeI 3 rd rs1 1 imm
  | .divh rd rs1 imm => encodeI 3 rd rs1 2 imm
  | .modR rd rs1 rs2 => encodeR 4 rd rs1 rs2
  | .modI rd rs1 imm => encodeI 4 rd rs1 0 imm
  | .modu rd rs1 imm => encodeI 4 rd rs1 1 imm
  | .modh rd rs1 imm => encodeI 4 rd rs1 2 imm
  | .cmpR rs1 rs2 => encodeR 5 0 rs1 rs2
  | .cmpI rs1 imm => encodeI 5 0 rs1 0 imm
  | .cmpu rs1 imm => encodeI 5 0 rs1 1 imm
  | .cmph rs1 imm => encodeI 5 0 rs1 2 imm
  | .andR rd rs1 rs2 => encodeR 6 rd rs1 rs2
  | .andI rd rs1 imm => encodeI 6 rd rs1 0 imm
  | .andu rd rs1 imm => encodeI 6 rd rs1 1 imm
  | .andh rd rs1 imm => encodeI 6 rd rs1 2 imm
  | .orR rd rs1 rs2 => encodeR 7 rd rs1 rs2
  | .orI rd rs1 imm => encodeI 7 rd rs1 0 imm
  | .oru rd rs1 imm => encodeI 7 rd rs1 1 imm
  | .orh rd rs1 imm => encodeI 7 rd rs1 2 imm
  | .notR rd rs2 => encodeR 8 rd 0 rs2
  | .notI rd imm => encodeI 8 rd 0 0 imm
  | .notu rd imm => encodeI 8 rd 0 1 imm
  | .noth rd imm => encodeI 8 rd 0 2 imm
  | .movR rd rs2 => encodeR 9 rd 0 rs2
  | .movI rd imm => encodeI 9 rd 0 0 imm
  | .movu rd imm => encodeI 9 rd 0 1 imm
  | .movh rd imm => encodeI 9 rd 0 2 imm
  | .lslR rd rs1 rs2 => encodeR 10 rd rs1 rs2
  | .lslI rd rs1 imm => encodeI 10 rd rs1 0 imm
  | .lslu rd rs1 imm => encodeI 10 rd rs1 1 imm
  | .lslh rd rs1 imm => encodeI 10 rd rs1 2 imm
  | .lsrR rd rs1 rs2 => encodeR 11 rd rs1 rs2
  | .lsrI rd rs1 imm => encodeI 11 rd rs1 0 imm
  | .lsru rd rs1 imm => encodeI 11 rd rs1 1 imm
  | .lsrh rd rs1 imm => encodeI 11 rd rs1 2 imm
  | .asrR rd rs1 rs2 => encodeR 12 rd rs1 rs2
  | .asrI rd rs1 imm => encodeI 12 rd rs1 0 imm
  | .asru rd rs1 imm => encodeI 12 rd rs1 1 imm
  | .asrh rd rs1 imm => encodeI 12 rd rs1 2 imm
  | .ld rd rs1 imm => encodeI 14 rd rs1 0 imm
  | .ldu rd rs1 imm => encodeI 14 rd rs1 1 imm
  | .ldh rd rs1 imm => encodeI 14 rd rs1 2 imm
  | .st rd rs1 imm => encodeI 15 rd rs1 0 imm
  | .stu rd rs1 imm => encodeI 15 rd rs1 1 imm
  | .sth rd rs1 imm => encodeI 15 rd rs1 2 imm
  | .beq boff => encodeB 16 boff
  | .bgt boff => encodeB 17 boff
  | .b boff => encodeB 18 boff
  | .call boff => encodeB 19 boff
  | .nop => encodeZ 13
  | .ret => encodeZ 20
  | .hlt => encodeZ 31

/-! ### Ignored bits (R63) -/

/-- The bits 13:0, which format R ignores. -/
def ignoredR : Word := 0x00003FFF

/-- The field rd (25:22), which `cmp` ignores. -/
def ignoredRd : Word := 0x03C00000

/-- The field rs1 (21:18), which `mov` and `not` ignore. -/
def ignoredRs1 : Word := 0x003C0000

/-- The bits 26:0, which format Z ignores. -/
def ignoredZ : Word := 0x07FFFFFF

/-- The bits of a word that carry no field of the instruction it encodes (R63); 0 for a word whose opcode is in no row
of R63's table. -/
def ignoredBits (w : Word) : Word :=
  let formatR := if fieldI w then 0 else ignoredR
  match (fieldOpcode w).toNat with
  | 5 => formatR ||| ignoredRd
  | 8 | 9 => formatR ||| ignoredRs1
  | 0 | 1 | 2 | 3 | 4 | 6 | 7 | 10 | 11 | 12 => formatR
  | 13 | 20 | 31 => ignoredZ
  | _ => 0

/-- The word has every ignored bit 0 (R63). -/
def canonical (w : Word) : Bool := w &&& ignoredBits w == 0

end Sys2Proof
end

