-- ==== Sys2Proof/Machine/Ops.lean ====
section
/-! DEFINITION. The named operations the meanings are made of: registers (spec/10_state.md R12), the pc (R15), checked
memory accesses (spec/20_memory.md R36), taking a fault (spec/60_exceptions.md R165), and fetching an instruction
(spec/50_core_units.md R140). -/

namespace Sys2Proof.Machine

/-! ### Registers, pc, cycles -/

/-- `x[r]` (R7). No register is hardwired (R13). -/
def State.readReg (s : State) (r : Reg) : Word := s.regs[r.toNat]'r.isLt

/-- `x[r] <- v` (R7), for every index 0 to 15 (R13). -/
def State.writeReg (s : State) (r : Reg) (v : Word) : State := { s with regs := s.regs.set r.toNat v r.isLt }

/-- The fetch-incremented PC, `pc + 4` modulo 2^32 (R15, R16). -/
def State.pcPlus4 (s : State) : Word := s.pc + Config.instrBytes

/-- `pc <- t`. The value is not checked here but when it is fetched from (R16). -/
def State.jump (s : State) (t : Word) : State := { s with pc := t }

/-- `pc <- pc + 4` (R15). -/
def State.advance (s : State) : State := s.jump s.pcPlus4

/-- `flags.E <- e`, `flags.GT <- gt`, together (R100). -/
def State.setFlags (s : State) (f : Flags) : State := { s with flags := f }

/-- `status <- Halted`, the pc unchanged (R121). -/
def State.halt (s : State) : State := { s with status := .halted }

/-- `cycles <- cycles + 1`, the first thing a cycle does (R19, R140). -/
def State.countCycle (s : State) : State := { s with cycles := s.cycles + 1 }

/-! ### Faults -/

/-- Fault entry (R165): `status <- Faulted(...)` and nothing else. Nothing is saved, there is no handler and no mode
change; `pc`, registers, flags and memory keep their values (R141, R166). There is no return (R168): the only way on is
reset. The cycle has been counted by `State.countCycle`. -/
def State.takeFault (s : State) (c : FaultCause) : State := { s with status := .faulted c }

/-- The reason code of R160. -/
def FaultCause.code : FaultCause → Nat
  | .decodeUnknownOpcode _ => 1
  | .decodeReserved _ => 2
  | .memUnaligned _ _ => 3
  | .memOutOfBounds _ _ => 4

/-- The numeric access kind of R18. -/
def AccessKind.code : AccessKind → Nat
  | .fetch => 0
  | .load => 1
  | .store => 2

/-- `status.kind`, meaningful for the two memory faults (R18). -/
def FaultCause.kindCode : FaultCause → Option Nat
  | .decodeUnknownOpcode _ => none
  | .decodeReserved _ => none
  | .memUnaligned k _ => some k.code
  | .memOutOfBounds k _ => some k.code

/-- `status.info`: the instruction word, or the faulting byte address (R18, R160). -/
def FaultCause.info : FaultCause → Word
  | .decodeUnknownOpcode w => w
  | .decodeReserved w => w
  | .memUnaligned _ a => a
  | .memOutOfBounds _ a => a

/-- `status.tag`: 0, 1, 2 (R18). -/
def Status.tag : Status → Nat
  | .running => 0
  | .halted => 1
  | .faulted _ => 2

/-- `status.reason`, meaningful when the tag is `Faulted` (R18). -/
def Status.reason : Status → Option Nat
  | .running => none
  | .halted => none
  | .faulted c => some c.code

/-- The source's halted flag: `status.tag != Running` (R18). -/
def Status.haltedFlag : Status → Bool
  | .running => false
  | .halted => true
  | .faulted _ => true

/-! ### Memory accesses -/

/-- `check(kind, addr)` (R36): the fault of an access, alignment tested before bounds (R35), the bound in the integers
(R34). -/
def checkAccess (kind : AccessKind) (addr : Word) (memSize : Nat) : Option FaultCause :=
  if addr.extractLsb' 0 2 ≠ 0 then some (.memUnaligned kind addr)
  else if addr.toNat + 4 > memSize then some (.memOutOfBounds kind addr)
  else none

/-- `MemRead(addr, 4)` (R36). -/
def State.memRead (s : State) (kind : AccessKind) (addr : Word) : Except FaultCause Word :=
  match checkAccess kind addr s.memSize with
  | some c => .error c
  | none => .ok (s.mem.readWord addr.toNat)

/-- `MemWrite(addr, 4, v)` (R36). -/
def State.memWrite (s : State) (addr v : Word) : Except FaultCause State :=
  match checkAccess .store addr s.memSize with
  | some c => .error c
  | none => .ok { s with mem := s.mem.writeWord addr.toNat v }

/-! ### Fetch and decode -/

/-- Phases 1 and 2 of the cycle (R140): the instruction at `pc`, or the first fault of fetch and decode (R167). -/
def State.fetchDecode (s : State) : Except FaultCause Instr :=
  match s.memRead .fetch s.pc with
  | .error c => .error c
  | .ok w =>
    match decode w with
    | .instr i => .ok i
    | .unknownOpcode v => .error (.decodeUnknownOpcode v)
    | .reserved v => .error (.decodeReserved v)

/-- Whether the fetch at `pc` is made (R33, R34). -/
def State.fetchable (s : State) : Bool := (checkAccess .fetch s.pc s.memSize).isNone

end Sys2Proof.Machine
end

