-- ==== Sys2Proof/Machine/Operands.lean ====
section
/-! DEFINITION. The operand forms: the immediate expansion (spec/30_encoding.md R57), the second operand (R58), the
effective address (spec/44_load_store.md R115) and the target of a transfer (spec/43_branch.md R105). -/

namespace Sys2Proof.Machine

/-- Modifier 00: `sext_32(imm16)` (R57). -/
def immSigned (imm : Imm16) : Word := imm.signExtend 32

/-- Modifier 01, suffix `u`: `zext_32(imm16)` (R57). -/
def immUnsigned (imm : Imm16) : Word := imm.setWidth 32

/-- Modifier 10, suffix `h`: `imm16 || 0x0000` (R57). -/
def immHigh (imm : Imm16) : Word := imm ++ 0#16

/-- The expansion by the modifier; none for the reserved modifier 0b11 (R57). -/
def expandImm (modifier : BitVec 2) (imm : Imm16) : Option Word :=
  match modifier.toNat with
  | 0 => some (immSigned imm)
  | 1 => some (immUnsigned imm)
  | 2 => some (immHigh imm)
  | _ => none

/-- `ea = x[rs1] + immx`, modulo 2^32, before any check (R115). -/
def effectiveAddress (s : State) (rs1 : Reg) (immx : Word) : Word := s.readReg rs1 + immx

/-- `target = (pc + 4) + boff`, modulo 2^32 (R105, C1). -/
def branchTarget (s : State) (boff : Word) : Word := s.pcPlus4 + boff

/-! ### How an instruction ends -/

/-- What executing an instruction answers. -/
abbrev Result := Host.Outcome State Fault Refusal

/-- An instruction that writes `v` to `x[rd]` and goes on: the end of every ALU instruction (R80, R90) and of `ld`. -/
def writeAndAdvance (rd : Reg) (v : Word) (s : State) : Result := .next (s.writeReg rd v).advance

/-- A PC-relative branch taken iff `cond` (R105); its target is not checked (R111). -/
def branchIf (cond : Bool) (boff : Word) (s : State) : Result :=
  .next (if cond then s.jump (branchTarget s boff) else s.advance)

/-- `x[rd] <- MemRead(ea, 4)`, or the load's fault (R116). -/
def loadWord (rd : Reg) (ea : Word) (s : State) : Result :=
  match s.memRead .load ea with
  | .ok v => writeAndAdvance rd v s
  | .error c => .next (s.takeFault c)

/-- `MemWrite(ea, 4, v)`, or the store's fault (R117). -/
def storeWord (ea v : Word) (s : State) : Result :=
  match s.memWrite ea v with
  | .ok t => .next t.advance
  | .error c => .next (s.takeFault c)

/-- `cmp` of two operand values: both flags, then on (R100). -/
def compareAndAdvance (a b : Word) (s : State) : Result := .next (s.setFlags (compareFlags a b)).advance

end Sys2Proof.Machine
end

