-- ==== Sys2Proof/Machine/Arithmetic.lean ====
section
/-! DEFINITION. The arithmetic instructions (spec/40_arithmetic.md R80 to R86). Each is phases 3 and 4 of the cycle (spec/50_core_units.md R140) of a
running core; `step` fetches, decodes, counts the cycle and gates on `status`. -/

namespace Sys2Proof.Machine

/-- `add`: register form (R81). -/
def execAddR (rd rs1 rs2 : Reg) (s : State) : Result :=
  writeAndAdvance rd (aluAdd (s.readReg rs1) (s.readReg rs2)) s

/-- `add`: immediate form, sign-extended (R81). -/
def execAddI (rd rs1 : Reg) (imm : Imm16) (s : State) : Result :=
  writeAndAdvance rd (aluAdd (s.readReg rs1) (immSigned imm)) s

/-- `addu`: immediate form, zero-extended (R81). -/
def execAddu (rd rs1 : Reg) (imm : Imm16) (s : State) : Result :=
  writeAndAdvance rd (aluAdd (s.readReg rs1) (immUnsigned imm)) s

/-- `addh`: immediate form, high half (R81). -/
def execAddh (rd rs1 : Reg) (imm : Imm16) (s : State) : Result :=
  writeAndAdvance rd (aluAdd (s.readReg rs1) (immHigh imm)) s

/-- `sub`: register form (R82). -/
def execSubR (rd rs1 rs2 : Reg) (s : State) : Result :=
  writeAndAdvance rd (aluSub (s.readReg rs1) (s.readReg rs2)) s

/-- `sub`: immediate form, sign-extended (R82). -/
def execSubI (rd rs1 : Reg) (imm : Imm16) (s : State) : Result :=
  writeAndAdvance rd (aluSub (s.readReg rs1) (immSigned imm)) s

/-- `subu`: immediate form, zero-extended (R82). -/
def execSubu (rd rs1 : Reg) (imm : Imm16) (s : State) : Result :=
  writeAndAdvance rd (aluSub (s.readReg rs1) (immUnsigned imm)) s

/-- `subh`: immediate form, high half (R82). -/
def execSubh (rd rs1 : Reg) (imm : Imm16) (s : State) : Result :=
  writeAndAdvance rd (aluSub (s.readReg rs1) (immHigh imm)) s

/-- `mul`: register form (R83). -/
def execMulR (rd rs1 rs2 : Reg) (s : State) : Result :=
  writeAndAdvance rd (aluMul (s.readReg rs1) (s.readReg rs2)) s

/-- `mul`: immediate form, sign-extended (R83). -/
def execMulI (rd rs1 : Reg) (imm : Imm16) (s : State) : Result :=
  writeAndAdvance rd (aluMul (s.readReg rs1) (immSigned imm)) s

/-- `mulu`: immediate form, zero-extended (R83). -/
def execMulu (rd rs1 : Reg) (imm : Imm16) (s : State) : Result :=
  writeAndAdvance rd (aluMul (s.readReg rs1) (immUnsigned imm)) s

/-- `mulh`: immediate form, high half (R83). -/
def execMulh (rd rs1 : Reg) (imm : Imm16) (s : State) : Result :=
  writeAndAdvance rd (aluMul (s.readReg rs1) (immHigh imm)) s

/-- `div`: register form (R84). -/
def execDivR (rd rs1 rs2 : Reg) (s : State) : Result :=
  writeAndAdvance rd (aluDiv (s.readReg rs1) (s.readReg rs2)) s

/-- `div`: immediate form, sign-extended (R84). -/
def execDivI (rd rs1 : Reg) (imm : Imm16) (s : State) : Result :=
  writeAndAdvance rd (aluDiv (s.readReg rs1) (immSigned imm)) s

/-- `divu`: immediate form, zero-extended (R84). -/
def execDivu (rd rs1 : Reg) (imm : Imm16) (s : State) : Result :=
  writeAndAdvance rd (aluDiv (s.readReg rs1) (immUnsigned imm)) s

/-- `divh`: immediate form, high half (R84). -/
def execDivh (rd rs1 : Reg) (imm : Imm16) (s : State) : Result :=
  writeAndAdvance rd (aluDiv (s.readReg rs1) (immHigh imm)) s

/-- `mod`: register form (R85). -/
def execModR (rd rs1 rs2 : Reg) (s : State) : Result :=
  writeAndAdvance rd (aluMod (s.readReg rs1) (s.readReg rs2)) s

/-- `mod`: immediate form, sign-extended (R85). -/
def execModI (rd rs1 : Reg) (imm : Imm16) (s : State) : Result :=
  writeAndAdvance rd (aluMod (s.readReg rs1) (immSigned imm)) s

/-- `modu`: immediate form, zero-extended (R85). -/
def execModu (rd rs1 : Reg) (imm : Imm16) (s : State) : Result :=
  writeAndAdvance rd (aluMod (s.readReg rs1) (immUnsigned imm)) s

/-- `modh`: immediate form, high half (R85). -/
def execModh (rd rs1 : Reg) (imm : Imm16) (s : State) : Result :=
  writeAndAdvance rd (aluMod (s.readReg rs1) (immHigh imm)) s

end Sys2Proof.Machine
end

