-- ==== Sys2Proof/Machine/Branch.lean ====
section
/-! DEFINITION. The control transfers (spec/43_branch.md R105 to R112). Each is phases 3 and 4 of the cycle (spec/50_core_units.md R140) of a
running core; `step` fetches, decodes, counts the cycle and gates on `status`. -/

namespace Sys2Proof.Machine

/-- `beq`: branch if `flags.E` (R106). -/
def execBeq (boff : Word) (s : State) : Result :=
  branchIf s.flags.e boff s

/-- `bgt`: branch if `flags.GT` (R107). -/
def execBgt (boff : Word) (s : State) : Result :=
  branchIf s.flags.gt boff s

/-- `b`: branch (R108). -/
def execB (boff : Word) (s : State) : Result :=
  branchIf true boff s

/-- `call`: branch and link: `x[15] <- pc + 4`, `pc <- target`, together (R109). -/
def execCall (boff : Word) (s : State) : Result :=
  .next ((s.writeReg Config.linkReg s.pcPlus4).jump (branchTarget s boff))

/-- `ret`: `pc <- x[15]`, all 32 bits, nothing masked (R110). -/
def execRet (s : State) : Result :=
  .next (s.jump (s.readReg Config.linkReg))

end Sys2Proof.Machine
end

