-- ==== Sys2Proof/Machine/Compare.lean ====
section
/-! DEFINITION. The compare instruction (spec/42_compare.md R100, R101). Each is phases 3 and 4 of the cycle (spec/50_core_units.md R140) of a
running core; `step` fetches, decodes, counts the cycle and gates on `status`. -/

namespace Sys2Proof.Machine

/-- `cmp`: register form (R100). -/
def execCmpR (rs1 rs2 : Reg) (s : State) : Result :=
  compareAndAdvance (s.readReg rs1) (s.readReg rs2) s

/-- `cmp`: immediate form, sign-extended (R100). -/
def execCmpI (rs1 : Reg) (imm : Imm16) (s : State) : Result :=
  compareAndAdvance (s.readReg rs1) (immSigned imm) s

/-- `cmpu`: immediate form, zero-extended (R100). -/
def execCmpu (rs1 : Reg) (imm : Imm16) (s : State) : Result :=
  compareAndAdvance (s.readReg rs1) (immUnsigned imm) s

/-- `cmph`: immediate form, high half (R100). -/
def execCmph (rs1 : Reg) (imm : Imm16) (s : State) : Result :=
  compareAndAdvance (s.readReg rs1) (immHigh imm) s

end Sys2Proof.Machine
end

