-- ==== Sys2Proof/Machine/LoadStore.lean ====
section
/-! DEFINITION. The loads and stores (spec/44_load_store.md R115 to R117). Each is phases 3 and 4 of the cycle (spec/50_core_units.md R140) of a
running core; `step` fetches, decodes, counts the cycle and gates on `status`. -/

namespace Sys2Proof.Machine

/-- `ld`: immediate form, sign-extended (R116). -/
def execLd (rd rs1 : Reg) (imm : Imm16) (s : State) : Result :=
  loadWord rd (effectiveAddress s rs1 (immSigned imm)) s

/-- `ldu`: immediate form, zero-extended (R116). -/
def execLdu (rd rs1 : Reg) (imm : Imm16) (s : State) : Result :=
  loadWord rd (effectiveAddress s rs1 (immUnsigned imm)) s

/-- `ldh`: immediate form, high half (R116). -/
def execLdh (rd rs1 : Reg) (imm : Imm16) (s : State) : Result :=
  loadWord rd (effectiveAddress s rs1 (immHigh imm)) s

/-- `st`: immediate form, sign-extended (R117). -/
def execSt (rd rs1 : Reg) (imm : Imm16) (s : State) : Result :=
  storeWord (effectiveAddress s rs1 (immSigned imm)) (s.readReg rd) s

/-- `stu`: immediate form, zero-extended (R117). -/
def execStu (rd rs1 : Reg) (imm : Imm16) (s : State) : Result :=
  storeWord (effectiveAddress s rs1 (immUnsigned imm)) (s.readReg rd) s

/-- `sth`: immediate form, high half (R117). -/
def execSth (rd rs1 : Reg) (imm : Imm16) (s : State) : Result :=
  storeWord (effectiveAddress s rs1 (immHigh imm)) (s.readReg rd) s

end Sys2Proof.Machine
end

