-- ==== Sys2Proof/Machine/Logical.lean ====
section
/-! DEFINITION. The logical, move and shift instructions (spec/41_logical.md R90 to R97). Each is phases 3 and 4 of the cycle (spec/50_core_units.md R140) of a
running core; `step` fetches, decodes, counts the cycle and gates on `status`. -/

namespace Sys2Proof.Machine

/-- `and`: register form (R91). -/
def execAndR (rd rs1 rs2 : Reg) (s : State) : Result :=
  writeAndAdvance rd (aluAnd (s.readReg rs1) (s.readReg rs2)) s

/-- `and`: immediate form, sign-extended (R91). -/
def execAndI (rd rs1 : Reg) (imm : Imm16) (s : State) : Result :=
  writeAndAdvance rd (aluAnd (s.readReg rs1) (immSigned imm)) s

/-- `andu`: immediate form, zero-extended (R91). -/
def execAndu (rd rs1 : Reg) (imm : Imm16) (s : State) : Result :=
  writeAndAdvance rd (aluAnd (s.readReg rs1) (immUnsigned imm)) s

/-- `andh`: immediate form, high half (R91). -/
def execAndh (rd rs1 : Reg) (imm : Imm16) (s : State) : Result :=
  writeAndAdvance rd (aluAnd (s.readReg rs1) (immHigh imm)) s

/-- `or`: register form (R92). -/
def execOrR (rd rs1 rs2 : Reg) (s : State) : Result :=
  writeAndAdvance rd (aluOr (s.readReg rs1) (s.readReg rs2)) s

/-- `or`: immediate form, sign-extended (R92). -/
def execOrI (rd rs1 : Reg) (imm : Imm16) (s : State) : Result :=
  writeAndAdvance rd (aluOr (s.readReg rs1) (immSigned imm)) s

/-- `oru`: immediate form, zero-extended (R92). -/
def execOru (rd rs1 : Reg) (imm : Imm16) (s : State) : Result :=
  writeAndAdvance rd (aluOr (s.readReg rs1) (immUnsigned imm)) s

/-- `orh`: immediate form, high half (R92). -/
def execOrh (rd rs1 : Reg) (imm : Imm16) (s : State) : Result :=
  writeAndAdvance rd (aluOr (s.readReg rs1) (immHigh imm)) s

/-- `not`: register form (R93). -/
def execNotR (rd rs2 : Reg) (s : State) : Result :=
  writeAndAdvance rd (aluNot (s.readReg rs2)) s

/-- `not`: immediate form, sign-extended (R93). -/
def execNotI (rd : Reg) (imm : Imm16) (s : State) : Result :=
  writeAndAdvance rd (aluNot (immSigned imm)) s

/-- `notu`: immediate form, zero-extended (R93). -/
def execNotu (rd : Reg) (imm : Imm16) (s : State) : Result :=
  writeAndAdvance rd (aluNot (immUnsigned imm)) s

/-- `noth`: immediate form, high half (R93). -/
def execNoth (rd : Reg) (imm : Imm16) (s : State) : Result :=
  writeAndAdvance rd (aluNot (immHigh imm)) s

/-- `mov`: register form (R94). -/
def execMovR (rd rs2 : Reg) (s : State) : Result :=
  writeAndAdvance rd (aluMov (s.readReg rs2)) s

/-- `mov`: immediate form, sign-extended (R94). -/
def execMovI (rd : Reg) (imm : Imm16) (s : State) : Result :=
  writeAndAdvance rd (aluMov (immSigned imm)) s

/-- `movu`: immediate form, zero-extended (R94). -/
def execMovu (rd : Reg) (imm : Imm16) (s : State) : Result :=
  writeAndAdvance rd (aluMov (immUnsigned imm)) s

/-- `movh`: immediate form, high half (R94). -/
def execMovh (rd : Reg) (imm : Imm16) (s : State) : Result :=
  writeAndAdvance rd (aluMov (immHigh imm)) s

/-- `lsl`: register form (R95). -/
def execLslR (rd rs1 rs2 : Reg) (s : State) : Result :=
  writeAndAdvance rd (aluLsl (s.readReg rs1) (s.readReg rs2)) s

/-- `lsl`: immediate form, sign-extended (R95). -/
def execLslI (rd rs1 : Reg) (imm : Imm16) (s : State) : Result :=
  writeAndAdvance rd (aluLsl (s.readReg rs1) (immSigned imm)) s

/-- `lslu`: immediate form, zero-extended (R95). -/
def execLslu (rd rs1 : Reg) (imm : Imm16) (s : State) : Result :=
  writeAndAdvance rd (aluLsl (s.readReg rs1) (immUnsigned imm)) s

/-- `lslh`: immediate form, high half (R95). -/
def execLslh (rd rs1 : Reg) (imm : Imm16) (s : State) : Result :=
  writeAndAdvance rd (aluLsl (s.readReg rs1) (immHigh imm)) s

/-- `lsr`: register form (R96). -/
def execLsrR (rd rs1 rs2 : Reg) (s : State) : Result :=
  writeAndAdvance rd (aluLsr (s.readReg rs1) (s.readReg rs2)) s

/-- `lsr`: immediate form, sign-extended (R96). -/
def execLsrI (rd rs1 : Reg) (imm : Imm16) (s : State) : Result :=
  writeAndAdvance rd (aluLsr (s.readReg rs1) (immSigned imm)) s

/-- `lsru`: immediate form, zero-extended (R96). -/
def execLsru (rd rs1 : Reg) (imm : Imm16) (s : State) : Result :=
  writeAndAdvance rd (aluLsr (s.readReg rs1) (immUnsigned imm)) s

/-- `lsrh`: immediate form, high half (R96). -/
def execLsrh (rd rs1 : Reg) (imm : Imm16) (s : State) : Result :=
  writeAndAdvance rd (aluLsr (s.readReg rs1) (immHigh imm)) s

/-- `asr`: register form (R97). -/
def execAsrR (rd rs1 rs2 : Reg) (s : State) : Result :=
  writeAndAdvance rd (aluAsr (s.readReg rs1) (s.readReg rs2)) s

/-- `asr`: immediate form, sign-extended (R97). -/
def execAsrI (rd rs1 : Reg) (imm : Imm16) (s : State) : Result :=
  writeAndAdvance rd (aluAsr (s.readReg rs1) (immSigned imm)) s

/-- `asru`: immediate form, zero-extended (R97). -/
def execAsru (rd rs1 : Reg) (imm : Imm16) (s : State) : Result :=
  writeAndAdvance rd (aluAsr (s.readReg rs1) (immUnsigned imm)) s

/-- `asrh`: immediate form, high half (R97). -/
def execAsrh (rd rs1 : Reg) (imm : Imm16) (s : State) : Result :=
  writeAndAdvance rd (aluAsr (s.readReg rs1) (immHigh imm)) s

end Sys2Proof.Machine
end

