-- ==== Sys2Proof/Machine/System.lean ====
section
/-! DEFINITION. The system instructions (spec/45_halt_nop.md R120 to R122). Each is phases 3 and 4 of the cycle (spec/50_core_units.md R140) of a
running core; `step` fetches, decodes, counts the cycle and gates on `status`. -/

namespace Sys2Proof.Machine

/-- `nop`: `pc <- pc + 4` (R120). -/
def execNop (s : State) : Result :=
  .next s.advance

/-- `hlt`: `status <- Halted`, the pc unchanged (R121). -/
def execHlt (s : State) : Result :=
  .next s.halt

end Sys2Proof.Machine
end

