-- ==== Sys2Proof/Machine/Dispatch.lean ====
section
/-! DEFINITION. Which meaning each instruction has: one arm per constructor of `Instr`. -/

namespace Sys2Proof.Machine

def exec (i : Instr) (s : State) : Host.Outcome State Fault Refusal :=
  match i with
  | .addR rd rs1 rs2 => Sys2Proof.Machine.execAddR rd rs1 rs2 s
  | .addI rd rs1 imm => Sys2Proof.Machine.execAddI rd rs1 imm s
  | .addu rd rs1 imm => Sys2Proof.Machine.execAddu rd rs1 imm s
  | .addh rd rs1 imm => Sys2Proof.Machine.execAddh rd rs1 imm s
  | .subR rd rs1 rs2 => Sys2Proof.Machine.execSubR rd rs1 rs2 s
  | .subI rd rs1 imm => Sys2Proof.Machine.execSubI rd rs1 imm s
  | .subu rd rs1 imm => Sys2Proof.Machine.execSubu rd rs1 imm s
  | .subh rd rs1 imm => Sys2Proof.Machine.execSubh rd rs1 imm s
  | .mulR rd rs1 rs2 => Sys2Proof.Machine.execMulR rd rs1 rs2 s
  | .mulI rd rs1 imm => Sys2Proof.Machine.execMulI rd rs1 imm s
  | .mulu rd rs1 imm => Sys2Proof.Machine.execMulu rd rs1 imm s
  | .mulh rd rs1 imm => Sys2Proof.Machine.execMulh rd rs1 imm s
  | .divR rd rs1 rs2 => Sys2Proof.Machine.execDivR rd rs1 rs2 s
  | .divI rd rs1 imm => Sys2Proof.Machine.execDivI rd rs1 imm s
  | .divu rd rs1 imm => Sys2Proof.Machine.execDivu rd rs1 imm s
  | .divh rd rs1 imm => Sys2Proof.Machine.execDivh rd rs1 imm s
  | .modR rd rs1 rs2 => Sys2Proof.Machine.execModR rd rs1 rs2 s
  | .modI rd rs1 imm => Sys2Proof.Machine.execModI rd rs1 imm s
  | .modu rd rs1 imm => Sys2Proof.Machine.execModu rd rs1 imm s
  | .modh rd rs1 imm => Sys2Proof.Machine.execModh rd rs1 imm s
  | .cmpR rs1 rs2 => Sys2Proof.Machine.execCmpR rs1 rs2 s
  | .cmpI rs1 imm => Sys2Proof.Machine.execCmpI rs1 imm s
  | .cmpu rs1 imm => Sys2Proof.Machine.execCmpu rs1 imm s
  | .cmph rs1 imm => Sys2Proof.Machine.execCmph rs1 imm s
  | .andR rd rs1 rs2 => Sys2Proof.Machine.execAndR rd rs1 rs2 s
  | .andI rd rs1 imm => Sys2Proof.Machine.execAndI rd rs1 imm s
  | .andu rd rs1 imm => Sys2Proof.Machine.execAndu rd rs1 imm s
  | .andh rd rs1 imm => Sys2Proof.Machine.execAndh rd rs1 imm s
  | .orR rd rs1 rs2 => Sys2Proof.Machine.execOrR rd rs1 rs2 s
  | .orI rd rs1 imm => Sys2Proof.Machine.execOrI rd rs1 imm s
  | .oru rd rs1 imm => Sys2Proof.Machine.execOru rd rs1 imm s
  | .orh rd rs1 imm => Sys2Proof.Machine.execOrh rd rs1 imm s
  | .notR rd rs2 => Sys2Proof.Machine.execNotR rd rs2 s
  | .notI rd imm => Sys2Proof.Machine.execNotI rd imm s
  | .notu rd imm => Sys2Proof.Machine.execNotu rd imm s
  | .noth rd imm => Sys2Proof.Machine.execNoth rd imm s
  | .movR rd rs2 => Sys2Proof.Machine.execMovR rd rs2 s
  | .movI rd imm => Sys2Proof.Machine.execMovI rd imm s
  | .movu rd imm => Sys2Proof.Machine.execMovu rd imm s
  | .movh rd imm => Sys2Proof.Machine.execMovh rd imm s
  | .lslR rd rs1 rs2 => Sys2Proof.Machine.execLslR rd rs1 rs2 s
  | .lslI rd rs1 imm => Sys2Proof.Machine.execLslI rd rs1 imm s
  | .lslu rd rs1 imm => Sys2Proof.Machine.execLslu rd rs1 imm s
  | .lslh rd rs1 imm => Sys2Proof.Machine.execLslh rd rs1 imm s
  | .lsrR rd rs1 rs2 => Sys2Proof.Machine.execLsrR rd rs1 rs2 s
  | .lsrI rd rs1 imm => Sys2Proof.Machine.execLsrI rd rs1 imm s
  | .lsru rd rs1 imm => Sys2Proof.Machine.execLsru rd rs1 imm s
  | .lsrh rd rs1 imm => Sys2Proof.Machine.execLsrh rd rs1 imm s
  | .asrR rd rs1 rs2 => Sys2Proof.Machine.execAsrR rd rs1 rs2 s
  | .asrI rd rs1 imm => Sys2Proof.Machine.execAsrI rd rs1 imm s
  | .asru rd rs1 imm => Sys2Proof.Machine.execAsru rd rs1 imm s
  | .asrh rd rs1 imm => Sys2Proof.Machine.execAsrh rd rs1 imm s
  | .ld rd rs1 imm => Sys2Proof.Machine.execLd rd rs1 imm s
  | .ldu rd rs1 imm => Sys2Proof.Machine.execLdu rd rs1 imm s
  | .ldh rd rs1 imm => Sys2Proof.Machine.execLdh rd rs1 imm s
  | .st rd rs1 imm => Sys2Proof.Machine.execSt rd rs1 imm s
  | .stu rd rs1 imm => Sys2Proof.Machine.execStu rd rs1 imm s
  | .sth rd rs1 imm => Sys2Proof.Machine.execSth rd rs1 imm s
  | .beq boff => Sys2Proof.Machine.execBeq boff s
  | .bgt boff => Sys2Proof.Machine.execBgt boff s
  | .b boff => Sys2Proof.Machine.execB boff s
  | .call boff => Sys2Proof.Machine.execCall boff s
  | .nop => Sys2Proof.Machine.execNop s
  | .ret => Sys2Proof.Machine.execRet s
  | .hlt => Sys2Proof.Machine.execHlt s

end Sys2Proof.Machine
end

