-- ==== Sys2Proof/Machine/Step.lean ====
section
/-! DEFINITION. One clock cycle (spec/50_core_units.md R140 to R142), and the placing of an instruction where the next
cycle fetches. -/

namespace Sys2Proof.Machine

/-- One cycle: the cycle is counted, the instruction at `pc` is fetched and decoded, and it executes; a fetch or decode
fault is taken instead (R140, R165). From `Halted` and `Faulted` there is no step (R142). -/
def step (s : State) : Host.Outcome State Fault Refusal :=
  match s.status with
  | .running =>
    match s.countCycle.fetchDecode with
    | .ok i => exec i s.countCycle
    | .error c => .next (s.countCycle.takeFault c)
  | .halted => .fault .halted
  | .faulted c => .fault (.faulted c)

/-- `s` with the instruction word `w` where the next step fetches: at `pc`, or at RESET_PC when no fetch at `pc` is
possible; the control unit running, so that a next step exists (log entry 8). -/
def State.withFetchWord (s : State) (nbits w : Nat) : State :=
  let pc := if s.fetchable then s.pc else Config.resetPc
  { s with
    pc := pc
    status := .running
    mem := s.mem.writeWord pc.toNat (BitVec.ofNat 32 (w % 2 ^ nbits)) }

end Sys2Proof.Machine
end

