-- ==== Sys2Proof/Machine/Datapath.lean ====
section
/-! DEFINITION. CORE as six units and the signals between them (spec/50_core_units.md R130 to R139, R142). A second,
independent reading of the cycle: no unit looks at `Instr` or at `decode`; each computes its outputs from the bits it is
given. That it agrees with `step` (R140, the normative one, D28) is a statement for the provers. -/

namespace Sys2Proof.Machine

/-! ### Signals -/

/-- `alu_op` (R137). -/
inductive AluOp where
  | add | sub | mul | div | mod | cmp | and | or | not | mov | lsl | lsr | asr
deriving DecidableEq, Repr

/-- The 2-bit fault signals of the two memory ports (R133, R138). -/
inductive PortFault where
  | none | unaligned | oob
deriving DecidableEq, Repr

/-- `decode_err` (R134). -/
inductive DecodeErr where
  | none | unknownOpcode | reserved
deriving DecidableEq, Repr

/-- The control signals of R135; `aluOp` is `none` where the table says the ALU is unused. -/
structure Controls where
  aluOp : Option AluOp := none
  wb : Bool := false
  isCmp : Bool := false
  isLd : Bool := false
  isSt : Bool := false
  isBeq : Bool := false
  isBgt : Bool := false
  isUbr : Bool := false
  isCall : Bool := false
  isRet : Bool := false
  isHlt : Bool := false
deriving DecidableEq, Repr

/-- The table of R135, by opcode; every signal 0 for an opcode that is no row of it. -/
def controlsOf (opcode : BitVec 5) : Controls :=
  match opcode.toNat with
  | 0 => { aluOp := some .add, wb := true }
  | 1 => { aluOp := some .sub, wb := true }
  | 2 => { aluOp := some .mul, wb := true }
  | 3 => { aluOp := some .div, wb := true }
  | 4 => { aluOp := some .mod, wb := true }
  | 5 => { aluOp := some .cmp, isCmp := true }
  | 6 => { aluOp := some .and, wb := true }
  | 7 => { aluOp := some .or, wb := true }
  | 8 => { aluOp := some .not, wb := true }
  | 9 => { aluOp := some .mov, wb := true }
  | 10 => { aluOp := some .lsl, wb := true }
  | 11 => { aluOp := some .lsr, wb := true }
  | 12 => { aluOp := some .asr, wb := true }
  | 13 => {}
  | 14 => { aluOp := some .add, wb := true, isLd := true }
  | 15 => { aluOp := some .add, isSt := true }
  | 16 => { isBeq := true }
  | 17 => { isBgt := true }
  | 18 => { isUbr := true }
  | 19 => { wb := true, isUbr := true, isCall := true }
  | 20 => { isUbr := true, isRet := true }
  | 31 => { isHlt := true }
  | _ => {}

/-- The fault signal of a port: `unaligned` if `addr[1:0] != 0`, else `oob` if `u(addr) + 4 > MEM_SIZE` (R133, R138). -/
def portFault (addr : Word) (memSize : Nat) : PortFault :=
  if addr.toNat % 4 ≠ 0 then .unaligned else if addr.toNat + 4 > memSize then .oob else .none

/-! ### The units -/

/-- Outputs of `fetch_unit` (R133). `inst` is meant only if `fetchFault` is `none`. -/
structure FetchOut where
  inst : Word
  pcCur : Word
  pcPlus4 : Word
  fetchFault : PortFault
deriving DecidableEq, Repr

/-- `fetch_unit` (R133). -/
def fetchUnit (pc : Word) (mem : Memory) (memSize : Nat) : FetchOut where
  inst := mem.readWord pc.toNat
  pcCur := pc
  pcPlus4 := pc + 4
  fetchFault := portFault pc memSize

/-- Outputs of `decoder` (R134). `immx` is `none` under the reserved modifier 0b11. -/
structure DecoderOut where
  opcode : BitVec 5
  rd : Reg
  rs1 : Reg
  rs2 : Reg
  isImm : Bool
  immx : Option Word
  boff : Word
  decodeErr : DecodeErr
  controls : Controls
deriving DecidableEq, Repr

/-- The opcodes that may take format I: 0 to 12, 14, 15 (R51). -/
def hasImmFormat (opcode : BitVec 5) : Bool :=
  decide (opcode.toNat ≤ 12) || decide (opcode.toNat = 14) || decide (opcode.toNat = 15)

/-- `decode_err` (R134) from the bits: opcodes 21 to 30 (R61), and the two reserved patterns (R62). -/
def decodeErrOf (inst : Word) : DecodeErr :=
  let op := (fieldOpcode inst).toNat
  if 21 ≤ op ∧ op ≤ 30 then .unknownOpcode
  else if hasImmFormat (fieldOpcode inst) && fieldI inst && decide ((fieldModifier inst).toNat = 3) then .reserved
  else if (op = 14 ∨ op = 15) ∧ fieldI inst = false then .reserved
  else .none

/-- `decoder` (R134): every output a function of `inst` alone, every control signal 0 on an error. -/
def decoderUnit (inst : Word) : DecoderOut where
  opcode := fieldOpcode inst
  rd := fieldRd inst
  rs1 := fieldRs1 inst
  rs2 := fieldRs2 inst
  isImm := hasImmFormat (fieldOpcode inst) && fieldI inst
  immx := expandImm (fieldModifier inst) (fieldImm16 inst)
  boff := boffOf (fieldOff27 inst)
  decodeErr := decodeErrOf inst
  controls := if decodeErrOf inst = .none then controlsOf (fieldOpcode inst) else {}

/-- Outputs of `alu` (R137). `result` is `none` for CMP, which has none, and where the ALU is unused. -/
structure AluOut where
  result : Option Word
  eq : Bool
  gt : Bool
deriving DecidableEq, Repr

/-- `alu` (R137). -/
def aluUnit (op : Option AluOp) (a b : Word) : AluOut where
  result :=
    match op with
    | some .add => some (aluAdd a b)
    | some .sub => some (aluSub a b)
    | some .mul => some (aluMul a b)
    | some .div => some (aluDiv a b)
    | some .mod => some (aluMod a b)
    | some .cmp => none
    | some .and => some (aluAnd a b)
    | some .or => some (aluOr a b)
    | some .not => some (aluNot b)
    | some .mov => some (aluMov b)
    | some .lsl => some (aluLsl a b)
    | some .lsr => some (aluLsr a b)
    | some .asr => some (aluAsr a b)
    | none => none
  eq := compareEq a b
  gt := compareGt a b

/-- Read address 1 of `register_file` (R136). -/
def readAddr1 (d : DecoderOut) : Reg := if d.controls.isRet then Config.linkReg else d.rs1

/-- Read address 2 of `register_file` (R136). -/
def readAddr2 (d : DecoderOut) : Reg := if d.controls.isSt then d.rd else d.rs2

/-- The write address of `register_file` (R136). -/
def writeAddr (d : DecoderOut) : Reg := if d.controls.isCall then Config.linkReg else d.rd

/-- `mem_fault` of `load_store_unit` (R138): `none` for every instruction but `ld` and `st`. -/
def memFaultOf (d : DecoderOut) (addr : Word) (memSize : Nat) : PortFault :=
  if d.controls.isLd || d.controls.isSt then portFault addr memSize else .none

/-- Outputs of `control_unit` (R139). -/
structure ControlOut where
  fault : Option FaultCause
  nextPc : Word
  pcWe : Bool
  we : Bool
  dmemWe : Bool
  flagsWe : Bool
deriving DecidableEq, Repr

/-- The first of `fetch_fault`, `decode_err`, `mem_fault` that is not none (R139, R167), as `status` records it. -/
def firstFault (f : FetchOut) (d : DecoderOut) (memFault : PortFault) (addr : Word) : Option FaultCause :=
  let kind := if d.controls.isLd then AccessKind.load else AccessKind.store
  match f.fetchFault with
  | .unaligned => some (.memUnaligned .fetch f.pcCur)
  | .oob => some (.memOutOfBounds .fetch f.pcCur)
  | .none =>
    match d.decodeErr with
    | .unknownOpcode => some (.decodeUnknownOpcode f.inst)
    | .reserved => some (.decodeReserved f.inst)
    | .none =>
      match memFault with
      | .unaligned => some (.memUnaligned kind addr)
      | .oob => some (.memOutOfBounds kind addr)
      | .none => none

/-- `control_unit` (R139), its combinational outputs. -/
def controlUnit (status : Status) (flags : Flags) (f : FetchOut) (d : DecoderOut) (rd1 : Word)
    (fault : Option FaultCause) : ControlOut :=
  let c := d.controls
  let taken := c.isUbr || (c.isBeq && flags.e) || (c.isBgt && flags.gt)
  let branchTgt := if c.isRet then rd1 else f.pcPlus4 + d.boff
  let commit := decide (status = .running) && fault.isNone
  { fault := fault
    nextPc := if taken then branchTgt else f.pcPlus4
    pcWe := commit && !c.isHlt
    we := commit && c.wb
    dmemWe := commit && c.isSt
    flagsWe := commit && c.isCmp }

/-- The status the control unit latches at the edge (R139). -/
def nextStatus (status : Status) (fault : Option FaultCause) (isHlt : Bool) : Status :=
  if status = .running then
    match fault with
    | some c => .faulted c
    | none => if isHlt then .halted else .running
  else status

/-! ### The clock -/

/-- One clock edge with `reset` low: every state element changes at most once (R131, R139). In `Halted` and `Faulted`
every write enable is 0 and the edge leaves the state as it is (R142). A line read as 0 by `getD` is a line no enabled
write reads: the ALU has a result wherever one is used (R135). -/
def clockEdge (s : State) : State :=
  let f := fetchUnit s.pc s.mem s.memSize
  let d := decoderUnit f.inst
  let rd1 := s.readReg (readAddr1 d)
  let rd2 := s.readReg (readAddr2 d)
  let alu := aluUnit d.controls.aluOp rd1 (if d.isImm then d.immx.getD 0 else rd2)
  let addr := alu.result.getD 0
  let fault := firstFault f d (memFaultOf d addr s.memSize) addr
  let cu := controlUnit s.status s.flags f d rd1 fault
  let wd := if d.controls.isCall then f.pcPlus4
    else if d.controls.isLd then s.mem.readWord addr.toNat else alu.result.getD 0
  { regs := if cu.we then (s.writeReg (writeAddr d) wd).regs else s.regs
    pc := if cu.pcWe then cu.nextPc else s.pc
    flags := if cu.flagsWe then ⟨alu.eq, alu.gt⟩ else s.flags
    status := nextStatus s.status fault d.controls.isHlt
    mem := if cu.dmemWe then s.mem.writeWord addr.toNat rd2 else s.mem
    memSize := s.memSize
    cycles := if s.status = .running then s.cycles + 1 else s.cycles }

/-- A clock edge with the `reset` input (R133, R136, R190): reset wins over everything. -/
def clock (reset : Bool) (s : State) : State := if reset then State.resetSized s.memSize else clockEdge s

end Sys2Proof.Machine
end

