-- ==== Sys2Proof/Machine/Simulator.lean ====
section
/-! DEFINITION. The host around the core (spec/70_reset_and_hazards.md): reset R190, program load R191, the run with its
optional cycle bound R192, R193, and the run report R194. The host writes nothing while the core runs (R195). -/

namespace Sys2Proof.Machine

/-- Reset from any state: nothing survives but the size of the memory (R190). It is the only way out of `Halted` and
`Faulted` (R168). -/
def hostReset (s : State) : State := State.resetSized s.memSize

/-- Reset and program load: image word `i` at byte address `4*i`; an image longer than the memory is refused and no run
starts (R191, U10). -/
def loadProgram (memSize : Nat) (image : List Word) : Option State :=
  if 4 * image.length ≤ memSize then
    some { State.resetSized memSize with mem := Memory.writeWords [] Config.loadBase image }
  else none

/-- The three ways a run ends (R194). -/
inductive TerminalReason where
  /-- A `hlt` executed: success (R168, R194). -/
  | halted
  /-- A fault was taken. -/
  | faulted (cause : FaultCause)
  /-- The bound stopped the clock of a core still `Running`; not a state of the core (R171). -/
  | cycleLimitExceeded
deriving DecidableEq, Repr

/-- `RunReport`: the final state, the cycle count, and the terminal reason (R194). -/
structure RunReport where
  /-- The final state. -/
  state : State
  /-- The cycle count. -/
  cycles : Nat
  /-- Why the run ended. -/
  reason : TerminalReason
deriving DecidableEq, Repr

/-- The terminal reason the host reads off a core it no longer clocks (R194). -/
def stopReason : Status → TerminalReason
  | .running => .cycleLimitExceeded
  | .halted => .halted
  | .faulted c => .faulted c

/-- The report of a run that ends in `s` (R194). -/
def reportOf (s : State) : RunReport := ⟨s, s.cycles, stopReason s.status⟩

/-- At most `k` cycles, ending early in a terminal state (R192). -/
def clockFor : Nat → State → RunReport
  | 0, s => reportOf s
  | k + 1, s =>
    match step s with
    | .next t => clockFor k t
    | .fault _ => reportOf s
    | .refused _ => reportOf s

/-- `run(state, max_cycles)` with the bound present (R193): a step is taken while `Running` and `cycles < MAX_CYCLES`. -/
def run (maxCycles : Nat) (s : State) : RunReport := clockFor (maxCycles - s.cycles) s

/-- `run` as the host's loop (R192, R193), the bound optional: the report a run from `s` ends with, if it ends. With no
bound a program that reaches no terminal state has no report (U9). -/
inductive HostRun (maxCycles : Option Nat) : State → RunReport → Prop where
  /-- A terminal state ends the run (R194). -/
  | terminal (s : State) : s.status ≠ .running → HostRun maxCycles s (reportOf s)
  /-- The bound is tested before the step: `cycles >= MAX_CYCLES` and `Running` (R193). -/
  | limit (s : State) (n : Nat) : s.status = .running → maxCycles = some n → n ≤ s.cycles →
      HostRun maxCycles s ⟨s, s.cycles, .cycleLimitExceeded⟩
  /-- Otherwise the host clocks one step and goes on. -/
  | cycle (s t : State) (r : RunReport) : s.status = .running → (∀ n, maxCycles = some n → s.cycles < n) →
      step s = .next t → HostRun maxCycles t r → HostRun maxCycles s r

end Sys2Proof.Machine
end

