-- ==== Sys2Proof/Safety.lean ====
section
/-! DEFINITION. The terms claims are stated in: success and reachability (spec/60_exceptions.md R168), the invariant every
step keeps, what an instruction reads and writes (spec/10_state.md R24), and the frames of the instruction forms. -/

namespace Sys2Proof.Machine

/-! ### Runs -/

/-- The one successful end of a run (R168, R194). -/
def State.Succeeded (s : State) : Prop := s.status = .halted

/-- `t` is what some number of cycles makes of `s`. -/
inductive Reaches : State → State → Prop where
  | refl (s : State) : Reaches s s
  | tail (s t u : State) : Reaches s t → step t = .next u → Reaches s u

end Sys2Proof.Machine

namespace Sys2Proof

/-! ### What an instruction is (R60, R24) -/

/-- The classes of R60's last but one column. -/
inductive InstrClass where
  | arithmetic | logical | compare | load | store | branch | halt | noClass
deriving DecidableEq, Repr

/-- The class of an instruction (R60). -/
def Instr.instrClass : Instr → InstrClass
  | .addR _ _ _ => .arithmetic
  | .addI _ _ _ => .arithmetic
  | .addu _ _ _ => .arithmetic
  | .addh _ _ _ => .arithmetic
  | .subR _ _ _ => .arithmetic
  | .subI _ _ _ => .arithmetic
  | .subu _ _ _ => .arithmetic
  | .subh _ _ _ => .arithmetic
  | .mulR _ _ _ => .arithmetic
  | .mulI _ _ _ => .arithmetic
  | .mulu _ _ _ => .arithmetic
  | .mulh _ _ _ => .arithmetic
  | .divR _ _ _ => .arithmetic
  | .divI _ _ _ => .arithmetic
  | .divu _ _ _ => .arithmetic
  | .divh _ _ _ => .arithmetic
  | .modR _ _ _ => .arithmetic
  | .modI _ _ _ => .arithmetic
  | .modu _ _ _ => .arithmetic
  | .modh _ _ _ => .arithmetic
  | .cmpR _ _ => .compare
  | .cmpI _ _ => .compare
  | .cmpu _ _ => .compare
  | .cmph _ _ => .compare
  | .andR _ _ _ => .logical
  | .andI _ _ _ => .logical
  | .andu _ _ _ => .logical
  | .andh _ _ _ => .logical
  | .orR _ _ _ => .logical
  | .orI _ _ _ => .logical
  | .oru _ _ _ => .logical
  | .orh _ _ _ => .logical
  | .notR _ _ => .logical
  | .notI _ _ => .logical
  | .notu _ _ => .logical
  | .noth _ _ => .logical
  | .movR _ _ => .logical
  | .movI _ _ => .logical
  | .movu _ _ => .logical
  | .movh _ _ => .logical
  | .lslR _ _ _ => .logical
  | .lslI _ _ _ => .logical
  | .lslu _ _ _ => .logical
  | .lslh _ _ _ => .logical
  | .lsrR _ _ _ => .logical
  | .lsrI _ _ _ => .logical
  | .lsru _ _ _ => .logical
  | .lsrh _ _ _ => .logical
  | .asrR _ _ _ => .logical
  | .asrI _ _ _ => .logical
  | .asru _ _ _ => .logical
  | .asrh _ _ _ => .logical
  | .ld _ _ _ => .load
  | .ldu _ _ _ => .load
  | .ldh _ _ _ => .load
  | .st _ _ _ => .store
  | .stu _ _ _ => .store
  | .sth _ _ _ => .store
  | .beq _ => .branch
  | .bgt _ => .branch
  | .b _ => .branch
  | .call _ => .branch
  | .nop => .noClass
  | .ret => .branch
  | .hlt => .halt
/-- The register an instruction writes (R24). -/
def Instr.dest : Instr → Option Reg
  | .addR rd _ _ => some rd
  | .addI rd _ _ => some rd
  | .addu rd _ _ => some rd
  | .addh rd _ _ => some rd
  | .subR rd _ _ => some rd
  | .subI rd _ _ => some rd
  | .subu rd _ _ => some rd
  | .subh rd _ _ => some rd
  | .mulR rd _ _ => some rd
  | .mulI rd _ _ => some rd
  | .mulu rd _ _ => some rd
  | .mulh rd _ _ => some rd
  | .divR rd _ _ => some rd
  | .divI rd _ _ => some rd
  | .divu rd _ _ => some rd
  | .divh rd _ _ => some rd
  | .modR rd _ _ => some rd
  | .modI rd _ _ => some rd
  | .modu rd _ _ => some rd
  | .modh rd _ _ => some rd
  | .cmpR _ _ => none
  | .cmpI _ _ => none
  | .cmpu _ _ => none
  | .cmph _ _ => none
  | .andR rd _ _ => some rd
  | .andI rd _ _ => some rd
  | .andu rd _ _ => some rd
  | .andh rd _ _ => some rd
  | .orR rd _ _ => some rd
  | .orI rd _ _ => some rd
  | .oru rd _ _ => some rd
  | .orh rd _ _ => some rd
  | .notR rd _ => some rd
  | .notI rd _ => some rd
  | .notu rd _ => some rd
  | .noth rd _ => some rd
  | .movR rd _ => some rd
  | .movI rd _ => some rd
  | .movu rd _ => some rd
  | .movh rd _ => some rd
  | .lslR rd _ _ => some rd
  | .lslI rd _ _ => some rd
  | .lslu rd _ _ => some rd
  | .lslh rd _ _ => some rd
  | .lsrR rd _ _ => some rd
  | .lsrI rd _ _ => some rd
  | .lsru rd _ _ => some rd
  | .lsrh rd _ _ => some rd
  | .asrR rd _ _ => some rd
  | .asrI rd _ _ => some rd
  | .asru rd _ _ => some rd
  | .asrh rd _ _ => some rd
  | .ld rd _ _ => some rd
  | .ldu rd _ _ => some rd
  | .ldh rd _ _ => some rd
  | .st _ _ _ => none
  | .stu _ _ _ => none
  | .sth _ _ _ => none
  | .beq _ => none
  | .bgt _ => none
  | .b _ => none
  | .call _ => some Config.linkReg
  | .nop => none
  | .ret => none
  | .hlt => none
/-- The registers an instruction reads (R24). -/
def Instr.sources : Instr → List Reg
  | .addR _ rs1 rs2 => [rs1, rs2]
  | .addI _ rs1 _ => [rs1]
  | .addu _ rs1 _ => [rs1]
  | .addh _ rs1 _ => [rs1]
  | .subR _ rs1 rs2 => [rs1, rs2]
  | .subI _ rs1 _ => [rs1]
  | .subu _ rs1 _ => [rs1]
  | .subh _ rs1 _ => [rs1]
  | .mulR _ rs1 rs2 => [rs1, rs2]
  | .mulI _ rs1 _ => [rs1]
  | .mulu _ rs1 _ => [rs1]
  | .mulh _ rs1 _ => [rs1]
  | .divR _ rs1 rs2 => [rs1, rs2]
  | .divI _ rs1 _ => [rs1]
  | .divu _ rs1 _ => [rs1]
  | .divh _ rs1 _ => [rs1]
  | .modR _ rs1 rs2 => [rs1, rs2]
  | .modI _ rs1 _ => [rs1]
  | .modu _ rs1 _ => [rs1]
  | .modh _ rs1 _ => [rs1]
  | .cmpR rs1 rs2 => [rs1, rs2]
  | .cmpI rs1 _ => [rs1]
  | .cmpu rs1 _ => [rs1]
  | .cmph rs1 _ => [rs1]
  | .andR _ rs1 rs2 => [rs1, rs2]
  | .andI _ rs1 _ => [rs1]
  | .andu _ rs1 _ => [rs1]
  | .andh _ rs1 _ => [rs1]
  | .orR _ rs1 rs2 => [rs1, rs2]
  | .orI _ rs1 _ => [rs1]
  | .oru _ rs1 _ => [rs1]
  | .orh _ rs1 _ => [rs1]
  | .notR _ rs2 => [rs2]
  | .notI _ _ => []
  | .notu _ _ => []
  | .noth _ _ => []
  | .movR _ rs2 => [rs2]
  | .movI _ _ => []
  | .movu _ _ => []
  | .movh _ _ => []
  | .lslR _ rs1 rs2 => [rs1, rs2]
  | .lslI _ rs1 _ => [rs1]
  | .lslu _ rs1 _ => [rs1]
  | .lslh _ rs1 _ => [rs1]
  | .lsrR _ rs1 rs2 => [rs1, rs2]
  | .lsrI _ rs1 _ => [rs1]
  | .lsru _ rs1 _ => [rs1]
  | .lsrh _ rs1 _ => [rs1]
  | .asrR _ rs1 rs2 => [rs1, rs2]
  | .asrI _ rs1 _ => [rs1]
  | .asru _ rs1 _ => [rs1]
  | .asrh _ rs1 _ => [rs1]
  | .ld _ rs1 _ => [rs1]
  | .ldu _ rs1 _ => [rs1]
  | .ldh _ rs1 _ => [rs1]
  | .st rd rs1 _ => [rs1, rd]
  | .stu rd rs1 _ => [rs1, rd]
  | .sth rd rs1 _ => [rs1, rd]
  | .beq _ => []
  | .bgt _ => []
  | .b _ => []
  | .call _ => []
  | .nop => []
  | .ret => [Config.linkReg]
  | .hlt => []
end Sys2Proof

namespace Sys2Proof.Machine

/-! ### The invariant -/

/-- A recorded fault says what happened (R160 to R164): a decode fault names the word at `pc` and why it does not decode;
a memory fault names an address that breaks the rule it names, and that address is `pc` for a fetch, or the instruction
at `pc` is a load or a store. -/
def State.FaultTruthful (s : State) : FaultCause → Prop
  | .decodeUnknownOpcode w => s.fetchable = true ∧ w = s.mem.readWord s.pc.toNat ∧ decode w = .unknownOpcode w
  | .decodeReserved w => s.fetchable = true ∧ w = s.mem.readWord s.pc.toNat ∧ decode w = .reserved w
  | .memUnaligned .fetch a => a = s.pc ∧ a.toNat % 4 ≠ 0
  | .memOutOfBounds .fetch a => a = s.pc ∧ a.toNat % 4 = 0 ∧ s.memSize < a.toNat + 4
  | .memUnaligned .load a => a.toNat % 4 ≠ 0 ∧ ∃ i, s.fetchDecode = .ok i ∧ i.instrClass = .load
  | .memOutOfBounds .load a =>
    a.toNat % 4 = 0 ∧ s.memSize < a.toNat + 4 ∧ ∃ i, s.fetchDecode = .ok i ∧ i.instrClass = .load
  | .memUnaligned .store a => a.toNat % 4 ≠ 0 ∧ ∃ i, s.fetchDecode = .ok i ∧ i.instrClass = .store
  | .memOutOfBounds .store a =>
    a.toNat % 4 = 0 ∧ s.memSize < a.toNat + 4 ∧ ∃ i, s.fetchDecode = .ok i ∧ i.instrClass = .store

/-- What holds of every state the machine can be in. -/
structure State.Inv (s : State) : Prop where
  /-- MEM_SIZE is one the spec allows (R5). -/
  size : Config.LegalMemSize s.memSize
  /-- The memory is in canonical form. -/
  memWf : s.mem.wf
  /-- Nothing is stored at an address the memory does not have (R30). -/
  memInRange : ∀ c ∈ s.mem, c.1 < s.memSize
  /-- E and GT are never both 1 (R100). -/
  flagsExclusive : ¬(s.flags.e = true ∧ s.flags.gt = true)
  /-- A recorded fault says what happened. -/
  faultTruthful : ∀ c, s.status = .faulted c → s.FaultTruthful c

/-- The data access of an instruction: its kind and its effective address (R115 to R117); `none` for every instruction but
the loads and stores, which make none (R138). -/
def dataAccess (i : Instr) (s : State) : Option (AccessKind × Word) :=
  match i with
  | .addR _ _ _ => none
  | .addI _ _ _ => none
  | .addu _ _ _ => none
  | .addh _ _ _ => none
  | .subR _ _ _ => none
  | .subI _ _ _ => none
  | .subu _ _ _ => none
  | .subh _ _ _ => none
  | .mulR _ _ _ => none
  | .mulI _ _ _ => none
  | .mulu _ _ _ => none
  | .mulh _ _ _ => none
  | .divR _ _ _ => none
  | .divI _ _ _ => none
  | .divu _ _ _ => none
  | .divh _ _ _ => none
  | .modR _ _ _ => none
  | .modI _ _ _ => none
  | .modu _ _ _ => none
  | .modh _ _ _ => none
  | .cmpR _ _ => none
  | .cmpI _ _ => none
  | .cmpu _ _ => none
  | .cmph _ _ => none
  | .andR _ _ _ => none
  | .andI _ _ _ => none
  | .andu _ _ _ => none
  | .andh _ _ _ => none
  | .orR _ _ _ => none
  | .orI _ _ _ => none
  | .oru _ _ _ => none
  | .orh _ _ _ => none
  | .notR _ _ => none
  | .notI _ _ => none
  | .notu _ _ => none
  | .noth _ _ => none
  | .movR _ _ => none
  | .movI _ _ => none
  | .movu _ _ => none
  | .movh _ _ => none
  | .lslR _ _ _ => none
  | .lslI _ _ _ => none
  | .lslu _ _ _ => none
  | .lslh _ _ _ => none
  | .lsrR _ _ _ => none
  | .lsrI _ _ _ => none
  | .lsru _ _ _ => none
  | .lsrh _ _ _ => none
  | .asrR _ _ _ => none
  | .asrI _ _ _ => none
  | .asru _ _ _ => none
  | .asrh _ _ _ => none
  | .ld _ rs1 imm => some (.load, effectiveAddress s rs1 (immSigned imm))
  | .ldu _ rs1 imm => some (.load, effectiveAddress s rs1 (immUnsigned imm))
  | .ldh _ rs1 imm => some (.load, effectiveAddress s rs1 (immHigh imm))
  | .st _ rs1 imm => some (.store, effectiveAddress s rs1 (immSigned imm))
  | .stu _ rs1 imm => some (.store, effectiveAddress s rs1 (immUnsigned imm))
  | .sth _ rs1 imm => some (.store, effectiveAddress s rs1 (immHigh imm))
  | .beq _ => none
  | .bgt _ => none
  | .b _ => none
  | .call _ => none
  | .nop => none
  | .ret => none
  | .hlt => none

/-! ### Frames -/

/-- `t` differs from `s` in no register but `rd`, which holds `v`. -/
def RegsExcept (rd : Reg) (v : Word) (s t : State) : Prop :=
  t.readReg rd = v ∧ ∀ r, r ≠ rd → t.readReg r = s.readReg r

/-- `t` has the registers of `s`. -/
def SameRegs (s t : State) : Prop := ∀ r, t.readReg r = s.readReg r

/-- `t` has every byte of memory as `s` has it. -/
def SameMemory (s t : State) : Prop := ∀ a, t.mem.read a = s.mem.read a

/-- `t` has the flags, the control status, MEM_SIZE and the cycle count of `s`. -/
def SameControl (s t : State) : Prop :=
  t.flags = s.flags ∧ t.status = s.status ∧ t.memSize = s.memSize ∧ t.cycles = s.cycles

/-- The instruction completes from `s`: it writes `v` to `x[rd]` and goes on to `pc + 4`; every other register, the flags,
the status and every byte of memory are as before (R80, R90). -/
def WritesReg (i : Instr) (s : State) (rd : Reg) (v : Word) : Prop :=
  ∃ t, exec i s = .next t ∧ RegsExcept rd v s t ∧ SameMemory s t ∧ SameControl s t ∧ t.pc = s.pc + 4

/-- The instruction completes from `s`: it sets the pc to `target` and changes nothing else. -/
def OnlyJumps (i : Instr) (s : State) (target : Word) : Prop :=
  ∃ t, exec i s = .next t ∧ SameRegs s t ∧ SameMemory s t ∧ SameControl s t ∧ t.pc = target

/-- The instruction completes from `s`: it latches the flags and goes on; no register, no byte of memory changes. -/
def OnlyCompares (i : Instr) (s : State) (e gt : Bool) : Prop :=
  ∃ t, exec i s = .next t ∧ SameRegs s t ∧ SameMemory s t ∧ t.flags = ⟨e, gt⟩ ∧ t.status = s.status ∧
    t.memSize = s.memSize ∧ t.cycles = s.cycles ∧ t.pc = s.pc + 4

/-- The instruction completes from `s`: it stores the word `v` at the address `ea`, low byte first, and goes on; no other
byte of memory, no register and no flag changes. -/
def StoresWord (i : Instr) (s : State) (ea v : Word) : Prop :=
  ∃ t, exec i s = .next t ∧ SameRegs s t ∧ SameControl s t ∧ t.pc = s.pc + 4 ∧
    (∀ k, k < 4 → t.mem.read (ea.toNat + k) = byteOf v k) ∧
    ∀ a, (a < ea.toNat ∨ ea.toNat + 4 ≤ a) → t.mem.read a = s.mem.read a

/-- The instruction takes the fault `c` from `s`: `status` records it and nothing else changes, `pc` included (R165,
R166). -/
def TakesFault (i : Instr) (s : State) (c : FaultCause) : Prop :=
  ∃ t, exec i s = .next t ∧ SameRegs s t ∧ SameMemory s t ∧ t.flags = s.flags ∧ t.pc = s.pc ∧
    t.memSize = s.memSize ∧ t.cycles = s.cycles ∧ t.status = .faulted c

/-! ### The forms of an instruction -/

/-- The four forms of a three-operand ALU instruction (register; immediate under the modifiers 00, 01, 10) complete from
every state and write `f` of the values of `x[rs1]` and of the second operand (R57, R58, R80, R90). -/
def AluForms (r : Reg → Reg → Reg → Instr) (i u h : Reg → Reg → Imm16 → Instr) (f : Word → Word → Word) : Prop :=
  ∀ (s : State) (rd rs1 : Reg),
    (∀ rs2, WritesReg (r rd rs1 rs2) s rd (f (s.readReg rs1) (s.readReg rs2))) ∧
    ∀ imm : Imm16,
      WritesReg (i rd rs1 imm) s rd (f (s.readReg rs1) (imm.signExtend 32)) ∧
      WritesReg (u rd rs1 imm) s rd (f (s.readReg rs1) (imm.setWidth 32)) ∧
      WritesReg (h rd rs1 imm) s rd (f (s.readReg rs1) (imm ++ 0#16))

/-- The four forms of a two-operand ALU instruction, `not` and `mov`, complete from every state and write `f` of the value
of the second operand (R90). -/
def UnaryForms (r : Reg → Reg → Instr) (i u h : Reg → Imm16 → Instr) (f : Word → Word) : Prop :=
  ∀ (s : State) (rd : Reg),
    (∀ rs2, WritesReg (r rd rs2) s rd (f (s.readReg rs2))) ∧
    ∀ imm : Imm16,
      WritesReg (i rd imm) s rd (f (imm.signExtend 32)) ∧
      WritesReg (u rd imm) s rd (f (imm.setWidth 32)) ∧
      WritesReg (h rd imm) s rd (f (imm ++ 0#16))

/-- The four forms of `cmp` complete from every state and latch `fe` and `fgt` of the two operand values (R100). -/
def CompareForms (r : Reg → Reg → Instr) (i u h : Reg → Imm16 → Instr) (fe fgt : Word → Word → Bool) : Prop :=
  ∀ (s : State) (rs1 : Reg),
    (∀ rs2, OnlyCompares (r rs1 rs2) s (fe (s.readReg rs1) (s.readReg rs2)) (fgt (s.readReg rs1) (s.readReg rs2))) ∧
    ∀ imm : Imm16,
      OnlyCompares (i rs1 imm) s (fe (s.readReg rs1) (imm.signExtend 32)) (fgt (s.readReg rs1) (imm.signExtend 32)) ∧
      OnlyCompares (u rs1 imm) s (fe (s.readReg rs1) (imm.setWidth 32)) (fgt (s.readReg rs1) (imm.setWidth 32)) ∧
      OnlyCompares (h rs1 imm) s (fe (s.readReg rs1) (imm ++ 0#16)) (fgt (s.readReg rs1) (imm ++ 0#16))

/-- A load of `x[rd]` from `ea`: it completes with the word there when `ea` is aligned and in range, and takes the fault of
R33 or else of R34 when not (R116). -/
def LoadsFrom (i : Instr) (s : State) (rd : Reg) (ea : Word) : Prop :=
  (ea.toNat % 4 = 0 → ea.toNat + 4 ≤ s.memSize →
    WritesReg i s rd (s.mem.read (ea.toNat + 3) ++ s.mem.read (ea.toNat + 2) ++ s.mem.read (ea.toNat + 1) ++
      s.mem.read ea.toNat)) ∧
  (ea.toNat % 4 ≠ 0 → TakesFault i s (.memUnaligned .load ea)) ∧
  (ea.toNat % 4 = 0 → s.memSize < ea.toNat + 4 → TakesFault i s (.memOutOfBounds .load ea))

/-- A store of `v` to `ea`: it completes, storing the word and nothing else, when `ea` is aligned and in range, and takes
the fault of R33 or else of R34, storing nothing, when not (R117). -/
def StoresTo (i : Instr) (s : State) (ea v : Word) : Prop :=
  (ea.toNat % 4 = 0 → ea.toNat + 4 ≤ s.memSize → StoresWord i s ea v) ∧
  (ea.toNat % 4 ≠ 0 → TakesFault i s (.memUnaligned .store ea)) ∧
  (ea.toNat % 4 = 0 → s.memSize < ea.toNat + 4 → TakesFault i s (.memOutOfBounds .store ea))

end Sys2Proof.Machine
end

