-- ==== Sys2Proof/Certificates/Slice0/Obligations.lean ====
section
/-! DEFINITION. The statements for the provers, one definition each, in the order of OBLIGATIONS.json. The forms they are
stated in (`AluForms`, `WritesReg`, `OnlyJumps`, `LoadsFrom`, …) stand in Safety.lean. -/

open Sys2Proof Sys2Proof.Machine

/-- Decoding the encoding of a well-formed instruction gives it back, and the encoding is canonical (30_encoding.md
section 4, Illegal, reserved, ignored, 30_encoding.md section 1, Length and formats). The round trip over the whole
instruction set (30_encoding.md section 4; the spec marks its rule R66 as derived). -/
def Obligations.DecodeEncodeRoundTrip : Prop :=
  ∀ i : Instr, i.wf = true → decode (encode i) = .instr i ∧ canonical (encode i) = true

/-- Re-encoding a decoded word returns that word exactly when it is canonical (30_encoding.md section 4, Illegal,
reserved, ignored). The other direction of the round trip (30_encoding.md section 4; the spec marks its rule R66 as
derived). -/
def Obligations.EncodeReturnsExactlyTheCanonicalWords : Prop :=
  ∀ (w : Word) (i : Instr), decode w = .instr i →
    i.wf = true ∧ (encode i = w ↔ canonical w = true) ∧ decode (encode i) = decode w

/-- A word is an unknown opcode exactly when its opcode is 21 to 30, and the all-zero word is add r0, r0, r0 (R61). -/
def Obligations.UnknownOpcodesAreExactly21To30 : Prop :=
  (∀ w : Word,
    (decode w = .unknownOpcode w ↔ 21 ≤ w.toNat / 2 ^ 27 ∧ w.toNat / 2 ^ 27 ≤ 30) ∧
    (decode w = .unknownOpcode w ↔ 0xA8000000 ≤ w.toNat ∧ w.toNat ≤ 0xF7FFFFFF) ∧
    ∀ v, decode w = .unknownOpcode v → v = w) ∧
  decode 0 = .instr (.addR 0 0 0) ∧
  ∀ s : State, s.status = .running → s.fetchable = true → s.mem.readWord s.pc.toNat = 0 →
    ∃ t, step s = .next t ∧ RegsExcept 0 (s.readReg 0 + s.readReg 0) s t ∧ t.pc = s.pc + 4

/-- A word is reserved exactly when it is format I with modifier 0b11, or ld or st with the I bit clear (R62). -/
def Obligations.ReservedPatternsAreExactlyTwo : Prop :=
  ∀ w : Word,
    (decode w = .reserved w ↔
      (((fieldOpcode w).toNat ≤ 12 ∨ (fieldOpcode w).toNat = 14 ∨ (fieldOpcode w).toNat = 15) ∧
          w.getLsbD 26 = true ∧ w.getLsbD 17 = true ∧ w.getLsbD 16 = true) ∨
      (((fieldOpcode w).toNat = 14 ∨ (fieldOpcode w).toNat = 15) ∧ w.getLsbD 26 = false)) ∧
    ∀ v, decode w = .reserved v → v = w

/-- Changing the ignored bits of a word does not change the instruction it decodes to; encodings have them 0 (R63). -/
def Obligations.IgnoredBitsDoNotMatter : Prop :=
  (∀ (w m : Word) (i : Instr), decode w = .instr i →
    (((fieldOpcode w).toNat ≤ 12 ∧ fieldI w = false ∧ m &&& 0xFFFFC000 = 0) ∨
      ((fieldOpcode w).toNat = 5 ∧ m &&& 0xFC3FFFFF = 0) ∨
      (((fieldOpcode w).toNat = 8 ∨ (fieldOpcode w).toNat = 9) ∧ m &&& 0xFFC3FFFF = 0) ∨
      (((fieldOpcode w).toNat = 13 ∨ (fieldOpcode w).toNat = 20 ∨ (fieldOpcode w).toNat = 31) ∧
        m &&& 0xF8000000 = 0)) →
    decode (w ^^^ m) = .instr i) ∧
  (∀ (w : Word) (i : Instr), decode w = .instr i →
    decode (w &&& ~~~ignoredBits w) = .instr i ∧ encode i = w &&& ~~~ignoredBits w) ∧
  ∀ i : Instr, i.wf = true → encode i &&& ignoredBits (encode i) = 0

/-- Words the spec writes out decode to the instructions the spec says they are (95_test_vectors.md section 2.1,
Encoding and decoding). Vectors V-ENC1 to V-ENC4, V-ENC11, V-ENC22, V-ENC24, V-ENC27, V-ENC28, V-DEC3, V-DEC4,
V-DEC6, V-DEC8 of 95_test_vectors.md. -/
def Obligations.SpecWordsDecodeAsWritten : Prop :=
  decode 0x0048C000 = .instr (.addR 1 2 3) ∧ decode 0x0448FFFB = .instr (.addI 1 2 0xFFFB) ∧
  decode 0x0449FFFF = .instr (.addu 1 2 0xFFFF) ∧ decode 0x044A1234 = .instr (.addh 1 2 0x1234) ∧
  decode 0x2C080001 = .instr (.cmpI 2 1) ∧ decode 0x7CC00200 = .instr (.st 3 0 0x200) ∧
  decode 0x8FFFFFFC = .instr (.bgt 0xFFFFFFF0) ∧ decode 0xA0000000 = .instr .ret ∧
  decode 0xF8000000 = .instr .hlt ∧ decode 0x044B0005 = .reserved 0x044B0005 ∧
  decode 0x71040000 = .reserved 0x71040000 ∧ decode 0xA8000000 = .unknownOpcode 0xA8000000 ∧
  decode 0xF7FFFFFF = .unknownOpcode 0xF7FFFFFF

/-- Modifier 00 sign-extends, 01 zero-extends, 10 places the immediate in the high half, 11 gives no immediate
(30_encoding.md section 2, Immediates and operands). The table of R57, as a property of the model's immediate unit;
that each instruction form uses it is said by the statement of the form. -/
def Obligations.ImmediatesExpandByTheModifier : Prop :=
  ∀ imm : Imm16,
    (∃ v, expandImm 0 imm = some v ∧ v.toInt = imm.toInt) ∧
    (∃ v, expandImm 1 imm = some v ∧ v.toNat = imm.toNat) ∧
    (∃ v, expandImm 2 imm = some v ∧ v.toNat = imm.toNat * 65536) ∧
    expandImm 3 imm = none

/-- The decoded branch offset is the signed word count times 4, and the assembler formula reaches its label (R59). -/
def Obligations.BranchOffsetsCountWords : Prop :=
  (∀ off : Off27,
    (boffOf off).toInt = 4 * off.toInt ∧ (boffOf off).toNat % 4 = 0 ∧
    -268435456 ≤ (boffOf off).toInt ∧ (boffOf off).toInt ≤ 268435452 ∧
    decode ((16#5 ++ off : BitVec 32)) = .instr (.beq (boffOf off)) ∧
    decode ((17#5 ++ off : BitVec 32)) = .instr (.bgt (boffOf off)) ∧
    decode ((18#5 ++ off : BitVec 32)) = .instr (.b (boffOf off)) ∧
    decode ((19#5 ++ off : BitVec 32)) = .instr (.call (boffOf off)) ∧
    ∀ s : State, OnlyJumps (.b (boffOf off)) s ((s.pc + 4) + boffOf off)) ∧
  ∀ A L : Word, A.toNat % 4 = 0 → L.toNat % 4 = 0 →
    -268435456 ≤ (L - (A + 4)).toInt → (L - (A + 4)).toInt ≤ 268435452 →
    (A + 4) + boffOf (BitVec.ofInt 27 ((L - (A + 4)).toInt / 4)) = L

/-- A step of a running core executes the instruction its word at pc decodes to, the cycle counted (50_core_units.md
section 3, The step function). Phases 1 to 4 of R140 for a cycle that raises no fetch or decode fault. -/
def Obligations.StepRunsTheDecodedInstruction : Prop :=
  ∀ (s : State) (i : Instr), s.status = .running → s.pc.toNat % 4 = 0 → s.pc.toNat + 4 ≤ s.memSize →
    decode (s.mem.readWord s.pc.toNat) = .instr i →
    step s = exec i { s with cycles := s.cycles + 1 }

/-- A fetch or decode fault makes the next state Faulted with its record, the cycle counted, nothing else changed
(60_exceptions.md section 1, Causes, 50_core_units.md section 3, The step function). -/
def Obligations.FetchAndDecodeFaultsAreTaken : Prop :=
  ∀ s : State, s.status = .running →
    (s.pc.toNat % 4 ≠ 0 →
      step s = .next { s with status := .faulted (.memUnaligned .fetch s.pc), cycles := s.cycles + 1 }) ∧
    (s.pc.toNat % 4 = 0 → s.memSize < s.pc.toNat + 4 →
      step s = .next { s with status := .faulted (.memOutOfBounds .fetch s.pc), cycles := s.cycles + 1 }) ∧
    (s.pc.toNat % 4 = 0 → s.pc.toNat + 4 ≤ s.memSize → ∀ w, w = s.mem.readWord s.pc.toNat →
      (decode w = .unknownOpcode w →
        step s = .next { s with status := .faulted (.decodeUnknownOpcode w), cycles := s.cycles + 1 }) ∧
      (decode w = .reserved w →
        step s = .next { s with status := .faulted (.decodeReserved w), cycles := s.cycles + 1 }))

/-- A faulting cycle changes status and cycles and nothing else (R141, R165). -/
def Obligations.FaultsArePrecise : Prop :=
  ∀ (s t : State) (c : FaultCause), step s = .next t → t.status = .faulted c →
    t = { s with status := .faulted c, cycles := s.cycles + 1 }

/-- A cycle reports the first fault in the order fetch, decode, data access, unaligned before out of bounds (R167). -/
def Obligations.FaultPriorityFollowsThePhases : Prop :=
  ∀ s : State, s.status = .running → ∃ t, step s = .next t ∧
    let w := s.mem.readWord s.pc.toNat
    if s.pc.toNat % 4 ≠ 0 then t.status = .faulted (.memUnaligned .fetch s.pc)
    else if s.pc.toNat + 4 > s.memSize then t.status = .faulted (.memOutOfBounds .fetch s.pc)
    else match decode w with
      | .unknownOpcode _ => t.status = .faulted (.decodeUnknownOpcode w)
      | .reserved _ => t.status = .faulted (.decodeReserved w)
      | .instr i =>
        match dataAccess i s with
        | some (k, ea) =>
          if ea.toNat % 4 ≠ 0 then t.status = .faulted (.memUnaligned k ea)
          else if ea.toNat + 4 > s.memSize then t.status = .faulted (.memOutOfBounds k ea)
          else t.status = .running
        | none => ∀ c, t.status ≠ .faulted c

/-- From Halted or Faulted there is no step, a clock edge changes nothing, and reset starts again (R142). -/
def Obligations.TerminalStatesHold : Prop :=
  ∀ s : State, s.status ≠ .running →
    (∀ t, step s ≠ .next t) ∧ clock false s = s ∧ clock true s = State.resetSized s.memSize

/-- A running core always has a next state, and executing any instruction in any state answers one (50_core_units.md
section 3, The step function, 60_exceptions.md section 1, Causes). No instruction of R60 is stopped on any path, and
no arithmetic condition is an exception (60_exceptions.md section 1). -/
def Obligations.EveryRunningCycleCompletes : Prop :=
  (∀ s : State, s.status = .running → ∃ t, step s = .next t) ∧
  ∀ (i : Instr) (s : State), ∃ t, exec i s = .next t

/-- One clock edge of the six units computes exactly the normative step (50_core_units.md section 2, Unit interfaces,
50_core_units.md section 3, The step function). The unit description R133 to R139 against the step function R140,
which is the normative one (D28). -/
def Obligations.DatapathAgreesWithStep : Prop :=
  ∀ s : State, s.status = .running → step s = .next (clock false s)

/-- Every step keeps the invariant of the machine (10_state.md section 1, Inventory, 20_memory.md section 1, The address
space, 42_compare.md (R100, corner cases), 60_exceptions.md section 1, Causes). `State.Inv` is the model's own
collection: the canonical form of the memory list is the model's choice (log entry 4). -/
def Obligations.StepKeepsTheMachineInvariant : Prop :=
  ∀ s t : State, s.Inv → step s = .next t → t.Inv

/-- The state after reset meets the invariant, for every memory size the spec allows (10_state.md section 7, Reset
values, 00_scope.md section 4, Implementation parameters). -/
def Obligations.ResetMeetsTheMachineInvariant : Prop :=
  (∀ n : Nat, Config.LegalMemSize n → (State.resetSized n).Inv) ∧ State.reset.Inv

/-- Reset gives all registers 0, pc 0, flags 0, Running, cycles 0 and memory all zero, and nothing survives it (R190). -/
def Obligations.ResetPutsEveryElementAtItsValue : Prop :=
  (∀ s : State,
    (∀ r, (clock true s).readReg r = 0) ∧ (clock true s).pc = 0 ∧ (clock true s).flags = ⟨false, false⟩ ∧
    (clock true s).status = .running ∧ (clock true s).cycles = 0 ∧ ∀ a, (clock true s).mem.read a = 0) ∧
  (∀ s s' : State, s.memSize = s'.memSize → clock true s = clock true s') ∧
  (∀ s : State, s.status ≠ .running → (∀ t, step s ≠ .next t) ∧ (clock false s).status = s.status)

/-- cycles is 0 after reset, goes up by exactly 1 in every cycle from Running, and no instruction depends on it (R19). -/
def Obligations.CyclesCountEveryCycle : Prop :=
  (∀ n : Nat, (State.resetSized n).cycles = 0) ∧
  (∀ s : State, s.status = .running → ∃ t, step s = .next t ∧ t.cycles = s.cycles + 1) ∧
  (∀ s : State, s.status ≠ .running → (∀ t, step s ≠ .next t) ∧ (clock false s).cycles = s.cycles) ∧
  ∀ (i : Instr) (s t : State) (n : Nat), exec i s = .next t →
    exec i { s with cycles := n } = .next { t with cycles := n }

/-- Only cmp writes the flags, only beq reads E, only bgt reads GT, and reset leaves both 0 (R17). -/
def Obligations.OnlyCompareWritesFlags : Prop :=
  (∀ s t : State, step s = .next t → t.flags ≠ s.flags →
    ∃ i, s.fetchDecode = .ok i ∧ i.instrClass = .compare) ∧
  (∀ (i : Instr) (s t : State) (e : Bool), (∀ boff, i ≠ .beq boff) → exec i s = .next t →
    ∃ u, exec i { s with flags := { s.flags with e := e } } = .next u ∧
      SameRegs t u ∧ SameMemory t u ∧ u.pc = t.pc ∧ u.status = t.status) ∧
  (∀ (i : Instr) (s t : State) (g : Bool), (∀ boff, i ≠ .bgt boff) → exec i s = .next t →
    ∃ u, exec i { s with flags := { s.flags with gt := g } } = .next u ∧
      SameRegs t u ∧ SameMemory t u ∧ u.pc = t.pc ∧ u.status = t.status) ∧
  ∀ n : Nat, (State.resetSized n).flags = ⟨false, false⟩

/-- A step that changes a byte of memory executes a store, and the byte is one of the four at its effective address
(10_state.md section 1, Inventory, 20_memory.md section 3, Widths, alignment, bounds). -/
def Obligations.OnlyStoresWriteMemory : Prop :=
  ∀ (s t : State) (a : Nat), step s = .next t → t.mem.read a ≠ s.mem.read a →
    ∃ i ea, s.fetchDecode = .ok i ∧ dataAccess i s = some (.store, ea) ∧ ea.toNat % 4 = 0 ∧
      ea.toNat + 4 ≤ s.memSize ∧ ea.toNat ≤ a ∧ a < ea.toNat + 4

/-- Executing an instruction changes no register but its destination (10_state.md section 2, General registers). The
written column of R24, which the spec marks as derived. -/
def Obligations.InstructionsWriteOnlyTheirDestination : Prop :=
  ∀ (i : Instr) (s t : State) (r : Reg), exec i s = .next t → i.dest ≠ some r → t.readReg r = s.readReg r

/-- The value of a register an instruction does not read affects nothing but that register (10_state.md section 2,
General registers). The read column of R24, which the spec marks as derived. -/
def Obligations.UnreadRegistersDoNotMatter : Prop :=
  ∀ (i : Instr) (s t : State) (r : Reg) (v : Word), r ∉ i.sources → exec i s = .next t →
    ∃ u, exec i (s.writeReg r v) = .next u ∧ u.pc = t.pc ∧ u.flags = t.flags ∧ u.status = t.status ∧
      u.mem = t.mem ∧ ∀ q, q ≠ r → u.readReg q = t.readReg q

/-- A step from an aligned pc leaves pc aligned unless the instruction is ret (10_state.md section 3, Program counter,
43_branch.md (R111)). -/
def Obligations.PcStaysAlignedUnlessRet : Prop :=
  ∀ s t : State, s.pc.toNat % 4 = 0 → step s = .next t → s.fetchDecode ≠ .ok .ret → t.pc.toNat % 4 = 0

/-- pc goes to the target of a taken transfer, stays at a hlt or a fault, and is pc + 4 after everything else (R15). -/
def Obligations.PcAdvancesByRule : Prop :=
  ∀ s t : State, step s = .next t →
    ((∃ c, t.status = .faulted c) → t.pc = s.pc) ∧
    ((∀ c, t.status ≠ .faulted c) → ∃ i, s.fetchDecode = .ok i ∧
      match i with
      | .hlt => t.pc = s.pc
      | .ret => t.pc = s.readReg 15
      | .b boff => t.pc = (s.pc + 4) + boff
      | .call boff => t.pc = (s.pc + 4) + boff
      | .beq boff => t.pc = if s.flags.e then (s.pc + 4) + boff else s.pc + 4
      | .bgt boff => t.pc = if s.flags.gt then (s.pc + 4) + boff else s.pc + 4
      | _ => t.pc = s.pc + 4)

/-- A load returns the word the store before it stored there, and a load elsewhere what was there before (20_memory.md
section 5, Ordering, 20_memory.md section 3, Widths, alignment, bounds). Clauses (a) and (b) of R40 for data
accesses; the spec marks R40 as derived. -/
def Obligations.LoadAfterStoreReturnsTheWord : Prop :=
  ∀ (s t : State) (i j : Instr) (rs rb rd ra : Reg) (imm imm' : Imm16) (ea a : Word), s.mem.wf →
    (i = .st rs rb imm ∨ i = .stu rs rb imm ∨ i = .sth rs rb imm) →
    (j = .ld rd ra imm' ∨ j = .ldu rd ra imm' ∨ j = .ldh rd ra imm') →
    dataAccess i s = some (.store, ea) → ea.toNat % 4 = 0 → ea.toNat + 4 ≤ s.memSize → exec i s = .next t →
    dataAccess j t = some (.load, a) →
    (a = ea → WritesReg j t rd (s.readReg rs)) ∧
    (a ≠ ea → a.toNat % 4 = 0 → a.toNat + 4 ≤ s.memSize → WritesReg j t rd (s.mem.readWord a.toNat))

/-- A word stored at pc + 4 is the instruction the very next cycle executes (20_memory.md section 5, Ordering,
70_reset_and_hazards.md section 3, Hazards). Self-modifying code (R42 and R202, which the spec marks as derived). -/
def Obligations.StoreIsFetchedByTheNextCycle : Prop :=
  ∀ (s : State) (i j : Instr) (rs rb : Reg) (imm : Imm16), s.status = .running → s.mem.wf →
    (i = .st rs rb imm ∨ i = .stu rs rb imm ∨ i = .sth rs rb imm) → s.fetchDecode = .ok i →
    dataAccess i s = some (.store, s.pc + 4) → (s.pc + 4).toNat + 4 ≤ s.memSize →
    decode (s.readReg rs) = .instr j →
    ∃ t, step s = .next t ∧ t.status = .running ∧ t.pc = s.pc + 4 ∧
      step t = exec j { t with cycles := s.cycles + 2 }

/-- The numeric tag, reason, kind and info of every status are those of the spec's tables (10_state.md section 5,
Control and status state, 60_exceptions.md section 1, Causes). -/
def Obligations.StatusCodesAreAsListed : Prop :=
  (∀ s : Status, s.tag ≤ 2 ∧ (s.tag = 0 ↔ s = .running) ∧ (s.tag = 1 ↔ s = .halted) ∧
    (s.tag = 2 ↔ ∃ c, s = .faulted c) ∧ (s.haltedFlag = true ↔ s ≠ .running) ∧
    (s.reason = none ↔ s.tag ≠ 2)) ∧
  (∀ c, (Status.faulted c).reason = some c.code) ∧
  (∀ w, (FaultCause.decodeUnknownOpcode w).code = 1 ∧ (FaultCause.decodeReserved w).code = 2 ∧
    (FaultCause.decodeUnknownOpcode w).info = w ∧ (FaultCause.decodeReserved w).info = w ∧
    (FaultCause.decodeUnknownOpcode w).kindCode = none ∧ (FaultCause.decodeReserved w).kindCode = none) ∧
  (∀ k a, (FaultCause.memUnaligned k a).code = 3 ∧ (FaultCause.memOutOfBounds k a).code = 4 ∧
    (FaultCause.memUnaligned k a).info = a ∧ (FaultCause.memOutOfBounds k a).info = a ∧
    (FaultCause.memUnaligned k a).kindCode = some k.code ∧ (FaultCause.memOutOfBounds k a).kindCode = some k.code) ∧
  AccessKind.fetch.code = 0 ∧ AccessKind.load.code = 1 ∧ AccessKind.store.code = 2

/-- The byte at a + k holds bits 8k+7 : 8k of the word at a (20_memory.md section 2, Byte order). The byte order is the
spec's decision D15 (R31 is marked as derived). -/
def Obligations.WordsAreLittleEndian : Prop :=
  ∀ (m : Memory) (a : Nat), (m.readWord a).toNat =
    (m.read a).toNat + 256 * (m.read (a + 1)).toNat + 65536 * (m.read (a + 2)).toNat +
      16777216 * (m.read (a + 3)).toNat

/-- Loading puts image word i at byte address 4*i over a reset state, and refuses a longer image
(70_reset_and_hazards.md section 1, Reset and program load, 10_state.md section 7, Reset values). The load of R191
over the reset values of R23; the last clause is the model's: `State.Inv` includes the canonical form of the memory
list (log entry 4). -/
def Obligations.ProgramLoadPlacesTheImage : Prop :=
  ∀ (n : Nat) (image : List Word),
    (n < 4 * image.length → loadProgram n image = none) ∧
    (4 * image.length ≤ n → ∃ s, loadProgram n image = some s ∧ s = { State.resetSized n with mem := s.mem } ∧
      s.pc = 0 ∧
      (∀ i (hi : i < image.length), s.mem.readWord (4 * i) = image[i]) ∧
      (∀ a, 4 * image.length ≤ a → s.mem.read a = 0) ∧ (Config.LegalMemSize n → s.Inv))

/-- A bounded run takes no step at the bound, reports the limit only of a running core, and otherwise a terminal state
(R193). -/
def Obligations.RunRespectsTheCycleBound : Prop :=
  ∀ (m : Nat) (s : State),
    Reaches s (run m s).state ∧ (run m s).cycles = (run m s).state.cycles ∧
    ((run m s).reason = .cycleLimitExceeded ↔ (run m s).state.status = .running) ∧
    ((run m s).reason = .halted ↔ (run m s).state.status = .halted) ∧
    (∀ c, (run m s).reason = .faulted c ↔ (run m s).state.status = .faulted c) ∧
    (m ≤ s.cycles → (run m s).state = s) ∧
    (run m s).cycles ≤ max m s.cycles ∧
    (s.cycles ≤ m → (run m s).reason = .cycleLimitExceeded → (run m s).cycles = m) ∧
    (s.status = .running → s.cycles < m → ∃ t, step s = .next t ∧ run m s = run m t)

/-- The bounded run function computes exactly the report of the host's loop, and an unbounded run agrees when it ends
(70_reset_and_hazards.md section 2, The host). The loop of R192 and R193 as a relation against the function the
model runs. -/
def Obligations.RunIsTheHostLoop : Prop :=
  (∀ (m : Nat) (s : State) (r : RunReport), HostRun (some m) s r ↔ r = run m s) ∧
  ∀ (s : State) (r : RunReport),
    HostRun none s r ↔ ∃ m, s.cycles ≤ m ∧ r = run m s ∧ r.reason ≠ .cycleLimitExceeded

/-- add, addu, addh write the sum modulo 2^32 (R81). -/
def Obligations.AddWritesTheWrappedSum : Prop :=
  AluForms .addR .addI .addu .addh (fun a b => BitVec.ofNat 32 (a.toNat + b.toNat)) ∧
  (∀ a b : Word, BitVec.ofNat 32 (a.toNat + b.toNat) = BitVec.ofInt 32 (a.toInt + b.toInt)) ∧
  (∀ a b : Word, aluAdd a b = aluAdd b a) ∧ (∀ a b c : Word, aluAdd (aluAdd a b) c = aluAdd a (aluAdd b c)) ∧
  decode 0x0448FFFB = .instr (.addI 1 2 0xFFFB) ∧ decode 0 = .instr (.addR 0 0 0)

/-- sub, subu, subh write x[rs1] minus the second operand modulo 2^32 (R82). -/
def Obligations.SubWritesTheWrappedDifference : Prop :=
  AluForms .subR .subI .subu .subh (fun a b => a + ~~~b + 1) ∧
  (∀ a b : Word, a + ~~~b + 1 = BitVec.ofInt 32 (a.toInt - b.toInt)) ∧
  decode 0x0D140001 = .instr (.subI 4 5 1)

/-- mul, mulu, mulh write the low 32 bits of the product (R83). -/
def Obligations.MulWritesTheLowWord : Prop :=
  AluForms .mulR .mulI .mulu .mulh (fun a b => BitVec.ofInt 32 (a.toInt * b.toInt)) ∧
  (∀ a b : Word, BitVec.ofInt 32 (a.toInt * b.toInt) = BitVec.ofNat 32 (a.toNat * b.toNat)) ∧
  decode 0x10448000 = .instr (.mulR 1 1 2)

/-- div, divu, divh write the signed quotient rounded toward zero, and a free value for divisor 0 (R84). -/
def Obligations.DivWritesTheTruncatedQuotient : Prop :=
  AluForms .divR .divI .divu .divh (fun a b => if b = 0 then (Config.div0 a).q else BitVec.ofInt 32 (a.toInt.tdiv b.toInt)) ∧
  BitVec.ofInt 32 (Int.tdiv (0x80000000 : Word).toInt (0xFFFFFFFF : Word).toInt) = 0x80000000 ∧
  decode 0x1CC40007 = .instr (.divI 3 1 7)

/-- mod, modu, modh write the signed remainder with the sign of the dividend, and a free value for divisor 0 (R85). -/
def Obligations.ModWritesTheRemainder : Prop :=
  AluForms .modR .modI .modu .modh (fun a b => if b = 0 then (Config.div0 a).r else BitVec.ofInt 32 (a.toInt.tmod b.toInt)) ∧
  (∀ a b : Word, BitVec.ofInt 32 (a.toInt.tmod b.toInt) =
    BitVec.ofInt 32 (a.toInt - b.toInt * a.toInt.tdiv b.toInt)) ∧
  (∀ a b : Word, b ≠ 0 →
    a = BitVec.ofInt 32 (b.toInt * (aluDiv a b).toInt + (aluMod a b).toInt) ∧
    (aluMod a b).toInt.natAbs < b.toInt.natAbs ∧
    (0 ≤ a.toInt → 0 ≤ (aluMod a b).toInt) ∧ (a.toInt ≤ 0 → (aluMod a b).toInt ≤ 0)) ∧
  decode 0x20C48000 = .instr (.modR 3 1 2)

/-- and, andu, andh write the bitwise and (R91). -/
def Obligations.AndWritesTheConjunction : Prop :=
  AluForms .andR .andI .andu .andh (fun a b => a &&& b) ∧
  (∀ (a b : Word) (k : Nat), k < 32 → (a &&& b).getLsbD k = (a.getLsbD k && b.getLsbD k)) ∧
  decode 0x3449FF00 = .instr (.andu 1 2 0xFF00)

/-- or, oru, orh write the bitwise or (R92). -/
def Obligations.OrWritesTheDisjunction : Prop :=
  AluForms .orR .orI .oru .orh (fun a b => a ||| b) ∧
  (∀ (a b : Word) (k : Nat), k < 32 → (a ||| b).getLsbD k = (a.getLsbD k || b.getLsbD k)) ∧
  decode 0x38004000 = .instr (.orR 0 0 1)

/-- not, notu, noth write the complement of the second operand (R93). -/
def Obligations.NotWritesTheComplement : Prop :=
  UnaryForms .notR .notI .notu .noth (fun b => BitVec.ofNat 32 (2 ^ 32 - 1 - b.toNat)) ∧
  decode 0x40408000 = .instr (.notR 1 2)

/-- mov, movu, movh write the second operand (R94). -/
def Obligations.MovWritesTheSecondOperand : Prop :=
  UnaryForms .movR .movI .movu .movh (fun b => b) ∧
  decode 0x4C40FFFF = .instr (.movI 1 0xFFFF) ∧ decode 0x4C01ABCD = .instr (.movu 0 0xABCD) ∧
  decode 0x4C421234 = .instr (.movh 1 0x1234) ∧ decode 0x4C40000A = .instr (.movI 1 10)

/-- lsl, lslu, lslh shift left by the low five bits of the second operand (R95). -/
def Obligations.LslMultipliesByAPowerOfTwo : Prop :=
  AluForms .lslR .lslI .lslu .lslh (fun a b => BitVec.ofNat 32 (a.toNat * 2 ^ (b.toNat % 32))) ∧
  decode 0x54C00010 = .instr (.lslI 3 0 16)

/-- lsr, lsru, lsrh shift right by the low five bits of the second operand, zeros entering (R96). -/
def Obligations.LsrDividesByAPowerOfTwo : Prop :=
  AluForms .lsrR .lsrI .lsru .lsrh (fun a b => BitVec.ofNat 32 (a.toNat / 2 ^ (b.toNat % 32))) ∧
  decode 0x5C800010 = .instr (.lsrI 2 0 16)

/-- asr, asru, asrh shift right arithmetically, rounding toward minus infinity (R97). -/
def Obligations.AsrDividesTowardMinusInfinity : Prop :=
  AluForms .asrR .asrI .asru .asrh (fun a b => BitVec.ofInt 32 (a.toInt / 2 ^ (b.toNat % 32))) ∧
  decode 0x6500001F = .instr (.asrI 4 0 31)

/-- cmp, cmpu, cmph set E to equality and GT to the exact signed comparison, and write no register (R100). -/
def Obligations.CompareLatchesBothFlags : Prop :=
  CompareForms .cmpR .cmpI .cmpu .cmph (fun a b => decide (a = b)) (fun a b => decide (a.toInt > b.toInt)) ∧
  (∀ a b : Word, ¬(compareEq a b = true ∧ compareGt a b = true)) ∧
  decode 0x2C080001 = .instr (.cmpI 2 1) ∧ decode 0x2FC80001 = .instr (.cmpI 2 1)

/-- E is Z, and GT is not Z and N = V, of the 32-bit difference (42_compare.md (R101)). The source's flag names against
E and GT (R101, which the spec marks as derived). -/
def Obligations.CompareFlagsFromZeroNegativeOverflow : Prop :=
  ∀ a b : Word, (compareFlags a b).e = subZero a b ∧
    (compareFlags a b).gt = (!subZero a b && (subNegative a b == subOverflow a b))

/-- beq goes to its target if E is set and to pc + 4 if not, whatever GT is (R106). -/
def Obligations.BeqBranchesOnEqual : Prop :=
  (∀ (s : State) (boff : Word), OnlyJumps (.beq boff) s (if s.flags.e = true then (s.pc + 4) + boff else s.pc + 4)) ∧
  (∀ s : State, OnlyJumps (.beq 0) s (s.pc + 4)) ∧
  decode 0x80000005 = .instr (.beq 0x14) ∧ State.reset.flags.e = false

/-- bgt goes to its target if GT is set and to pc + 4 if not, whatever E is (R107). -/
def Obligations.BgtBranchesOnGreater : Prop :=
  (∀ (s : State) (boff : Word), OnlyJumps (.bgt boff) s (if s.flags.gt = true then (s.pc + 4) + boff else s.pc + 4)) ∧
  (∀ (s t : State) (rs1 rs2 : Reg) (boff : Word), exec (.cmpR rs1 rs2) s = .next t →
    OnlyJumps (.bgt boff) t
      (if (s.readReg rs1).toInt > (s.readReg rs2).toInt then (t.pc + 4) + boff else t.pc + 4)) ∧
  (∀ (s t : State) (rs1 : Reg) (imm : Imm16) (immx boff : Word),
    (exec (.cmpI rs1 imm) s = .next t ∧ immx = imm.signExtend 32) ∨
      (exec (.cmpu rs1 imm) s = .next t ∧ immx = imm.setWidth 32) ∨
      (exec (.cmph rs1 imm) s = .next t ∧ immx = imm ++ 0#16) →
    OnlyJumps (.bgt boff) t
      (if (s.readReg rs1).toInt > immx.toInt then (t.pc + 4) + boff else t.pc + 4)) ∧
  decode 0x8FFFFFFC = .instr (.bgt 0xFFFFFFF0)

/-- b sets pc to (pc + 4) + boff and changes nothing else, whatever the flags are (R108). -/
def Obligations.BranchAlwaysJumps : Prop :=
  (∀ (s : State) (boff : Word), OnlyJumps (.b boff) s ((s.pc + 4) + boff)) ∧
  decode 0x97FFFFFF = .instr (.b 0xFFFFFFFC) ∧ (∀ s : State, OnlyJumps (.b 0xFFFFFFFC) s s.pc) ∧
  decode 0x93FFFFFF = .instr (.b 0x0FFFFFFC) ∧ decode 0x94000000 = .instr (.b 0xF0000000) ∧
  decode 0x97FFFFF9 = .instr (.b 0xFFFFFFE4)

/-- call writes pc + 4 to r15 and sets pc to (pc + 4) + boff, together (R109). -/
def Obligations.CallLinksAndJumps : Prop :=
  (∀ (s : State) (boff : Word), ∃ t, exec (.call boff) s = .next t ∧ RegsExcept 15 (s.pc + 4) s t ∧
    SameMemory s t ∧ SameControl s t ∧ t.pc = (s.pc + 4) + boff) ∧
  decode 0x98000002 = .instr (.call 8)

/-- ret copies all 32 bits of r15 to pc, and a bad target faults at the next fetch (R110). -/
def Obligations.RetJumpsToTheLinkRegister : Prop :=
  (∀ s : State, OnlyJumps .ret s (s.readReg 15)) ∧
  (∀ s t : State, s.status = .running → exec .ret s = .next t →
    (t.pc.toNat % 4 ≠ 0 → step t = .next { t with status := .faulted (.memUnaligned .fetch (s.readReg 15)), cycles := t.cycles + 1 }) ∧
    (t.pc.toNat % 4 = 0 → t.memSize < t.pc.toNat + 4 →
      step t = .next { t with status := .faulted (.memOutOfBounds .fetch (s.readReg 15)), cycles := t.cycles + 1 })) ∧
  OnlyJumps .ret State.reset 0 ∧ decode 0xA0000000 = .instr .ret

/-- ld, ldu, ldh write the aligned, in-range word at x[rs1] + immx, and take the access fault otherwise (R116). -/
def Obligations.LoadsReadTheAddressedWord : Prop :=
  (∀ (s : State) (rd rs1 : Reg) (imm : Imm16),
    LoadsFrom (.ld rd rs1 imm) s rd (s.readReg rs1 + imm.signExtend 32) ∧
    LoadsFrom (.ldu rd rs1 imm) s rd (s.readReg rs1 + imm.setWidth 32) ∧
    LoadsFrom (.ldh rd rs1 imm) s rd (s.readReg rs1 + (imm ++ 0#16))) ∧
  (∀ w : Word, fieldOpcode w = 14 → (fieldI w = false ∨ fieldModifier w = 3) → decode w = .reserved w) ∧
  (∀ w : Word, fieldOpcode w = 15 → (fieldI w = false ∨ fieldModifier w = 3) → decode w = .reserved w) ∧
  decode 0x75040008 = .instr (.ld 4 1 8)

/-- st, stu, sth store x[rd] at the aligned, in-range address x[rs1] + immx, and take the access fault otherwise (R117). -/
def Obligations.StoresWriteTheAddressedWord : Prop :=
  (∀ (s : State) (rd rs1 : Reg) (imm : Imm16), s.mem.wf →
    StoresTo (.st rd rs1 imm) s (s.readReg rs1 + imm.signExtend 32) (s.readReg rd) ∧
    StoresTo (.stu rd rs1 imm) s (s.readReg rs1 + imm.setWidth 32) (s.readReg rd) ∧
    StoresTo (.sth rd rs1 imm) s (s.readReg rs1 + (imm ++ 0#16)) (s.readReg rd)) ∧
  (∀ w : Word, fieldOpcode w = 15 → (fieldI w = false ∨ fieldModifier w = 3) → decode w = .reserved w) ∧
  (∀ (s t : State) (ea v : Word), s.mem.wf → s.memWrite ea v = .ok t → t.memRead .fetch ea = .ok v) ∧
  decode 0x7CC00200 = .instr (.st 3 0 0x200)

/-- nop sets pc to pc + 4 and changes nothing else; every word 0x68000000 to 0x6FFFFFFF is nop (R120). -/
def Obligations.NopOnlyAdvances : Prop :=
  (∀ s : State, OnlyJumps .nop s (s.pc + 4)) ∧
  (∀ w : Word, 0x68000000 ≤ w.toNat → w.toNat ≤ 0x6FFFFFFF → decode w = .instr .nop) ∧
  ∀ s : State, s.status = .running → s.fetchDecode = .ok .nop →
    step s = .next { s with pc := s.pc + 4, cycles := s.cycles + 1 }

/-- hlt makes the status Halted with pc unchanged, its cycle is counted, and no step follows (R121). -/
def Obligations.HaltStopsTheCore : Prop :=
  (∀ s : State, ∃ t, exec .hlt s = .next t ∧ SameRegs s t ∧ SameMemory s t ∧ t.flags = s.flags ∧ t.pc = s.pc ∧
    t.memSize = s.memSize ∧ t.cycles = s.cycles ∧ t.status = .halted ∧
    (∀ u, step t ≠ .next u) ∧ clock false t = t) ∧
  (∀ s : State, s.status = .running → s.fetchDecode = .ok .hlt →
    step s = .next { s with status := .halted, cycles := s.cycles + 1 }) ∧
  ∀ w : Word, 0xF8000000 ≤ w.toNat → decode w = .instr .hlt
end

