-- ==== Sys2Proof/Laws/Encoding.lean ====
section
/-! SUPPORT. The fields of the words the encoder builds (spec/30_encoding.md R52 to R56): each field reads back as it was
put in. -/

namespace Sys2Proof

/-! ### Format R -/

@[simp] theorem fieldOpcode_encodeR (op : BitVec 5) (rd rs1 rs2 : Reg) : fieldOpcode (encodeR op rd rs1 rs2) = op := by
  apply BitVec.eq_of_getLsbD_eq
  intro i hi
  simp only [encodeR, fieldOpcode, BitVec.getLsbD_extractLsb', BitVec.getLsbD_append]
  interval_cases i <;> simp

@[simp] theorem fieldI_encodeR (op : BitVec 5) (rd rs1 rs2 : Reg) : fieldI (encodeR op rd rs1 rs2) = false := by
  simp only [fieldI, encodeR, BitVec.getLsbD_append]
  simp

@[simp] theorem fieldRd_encodeR (op : BitVec 5) (rd rs1 rs2 : Reg) : fieldRd (encodeR op rd rs1 rs2) = rd := by
  apply BitVec.eq_of_getLsbD_eq
  intro i hi
  simp only [encodeR, fieldRd, BitVec.getLsbD_extractLsb', BitVec.getLsbD_append]
  interval_cases i <;> simp

@[simp] theorem fieldRs1_encodeR (op : BitVec 5) (rd rs1 rs2 : Reg) : fieldRs1 (encodeR op rd rs1 rs2) = rs1 := by
  apply BitVec.eq_of_getLsbD_eq
  intro i hi
  simp only [encodeR, fieldRs1, BitVec.getLsbD_extractLsb', BitVec.getLsbD_append]
  interval_cases i <;> simp

@[simp] theorem fieldRs2_encodeR (op : BitVec 5) (rd rs1 rs2 : Reg) : fieldRs2 (encodeR op rd rs1 rs2) = rs2 := by
  apply BitVec.eq_of_getLsbD_eq
  intro i hi
  simp only [encodeR, fieldRs2, BitVec.getLsbD_extractLsb', BitVec.getLsbD_append]
  interval_cases i <;> simp

/-! ### Format I -/

@[simp] theorem fieldOpcode_encodeI (op : BitVec 5) (rd rs1 : Reg) (m : BitVec 2) (imm : Imm16) :
    fieldOpcode (encodeI op rd rs1 m imm) = op := by
  apply BitVec.eq_of_getLsbD_eq
  intro i hi
  simp only [encodeI, fieldOpcode, BitVec.getLsbD_extractLsb', BitVec.getLsbD_append]
  interval_cases i <;> simp

@[simp] theorem fieldI_encodeI (op : BitVec 5) (rd rs1 : Reg) (m : BitVec 2) (imm : Imm16) :
    fieldI (encodeI op rd rs1 m imm) = true := by
  simp only [fieldI, encodeI, BitVec.getLsbD_append]
  simp

@[simp] theorem fieldRd_encodeI (op : BitVec 5) (rd rs1 : Reg) (m : BitVec 2) (imm : Imm16) :
    fieldRd (encodeI op rd rs1 m imm) = rd := by
  apply BitVec.eq_of_getLsbD_eq
  intro i hi
  simp only [encodeI, fieldRd, BitVec.getLsbD_extractLsb', BitVec.getLsbD_append]
  interval_cases i <;> simp

@[simp] theorem fieldRs1_encodeI (op : BitVec 5) (rd rs1 : Reg) (m : BitVec 2) (imm : Imm16) :
    fieldRs1 (encodeI op rd rs1 m imm) = rs1 := by
  apply BitVec.eq_of_getLsbD_eq
  intro i hi
  simp only [encodeI, fieldRs1, BitVec.getLsbD_extractLsb', BitVec.getLsbD_append]
  interval_cases i <;> simp

@[simp] theorem fieldModifier_encodeI (op : BitVec 5) (rd rs1 : Reg) (m : BitVec 2) (imm : Imm16) :
    fieldModifier (encodeI op rd rs1 m imm) = m := by
  apply BitVec.eq_of_getLsbD_eq
  intro i hi
  simp only [encodeI, fieldModifier, BitVec.getLsbD_extractLsb', BitVec.getLsbD_append]
  interval_cases i <;> simp

@[simp] theorem fieldImm16_encodeI (op : BitVec 5) (rd rs1 : Reg) (m : BitVec 2) (imm : Imm16) :
    fieldImm16 (encodeI op rd rs1 m imm) = imm := by
  apply BitVec.eq_of_getLsbD_eq
  intro i hi
  simp only [encodeI, fieldImm16, BitVec.getLsbD_extractLsb', BitVec.getLsbD_append]
  interval_cases i <;> simp

/-! ### Formats B and Z -/

@[simp] theorem fieldOpcode_encodeB (op : BitVec 5) (boff : Word) : fieldOpcode (encodeB op boff) = op := by
  apply BitVec.eq_of_getLsbD_eq
  intro i hi
  simp only [encodeB, fieldOpcode, BitVec.getLsbD_extractLsb', BitVec.getLsbD_append]
  interval_cases i <;> simp

@[simp] theorem fieldOff27_encodeB (op : BitVec 5) (boff : Word) : fieldOff27 (encodeB op boff) = off27Of boff := by
  apply BitVec.eq_of_getLsbD_eq
  intro i hi
  simp only [encodeB, fieldOff27, BitVec.getLsbD_extractLsb', BitVec.getLsbD_append]
  interval_cases i <;> simp

@[simp] theorem fieldOpcode_encodeZ (op : BitVec 5) : fieldOpcode (encodeZ op) = op := by
  apply BitVec.eq_of_getLsbD_eq
  intro i hi
  simp only [encodeZ, fieldOpcode, BitVec.getLsbD_extractLsb', BitVec.getLsbD_append]
  interval_cases i <;> simp

end Sys2Proof
end

