-- ==== Sys2Proof/Laws/Memory.lean ====
section
/-! SUPPORT. The laws of the memory array: reading after writing, and that every operation keeps the canonical form. -/

namespace Sys2Proof.Machine

@[simp] theorem Memory.read_nil (a : Nat) : Memory.read [] a = Memory.unlisted := rfl

/-- An address none of the entries has reads as an unlisted one. -/
theorem Memory.read_eq_unlisted {m : Memory} {a : Nat} (h : ∀ c ∈ m, c.1 ≠ a) : m.read a = Memory.unlisted := by
  induction m with
  | nil => rfl
  | cons c rest ih =>
    obtain ⟨k, b⟩ := c
    have hk : k ≠ a := h (k, b) (List.mem_cons_self ..)
    simp only [Memory.read, if_neg hk]
    exact ih fun c hc => h c (List.mem_cons_of_mem _ hc)

/-- A write leaves every other byte. -/
theorem Memory.read_write_of_ne (m : Memory) {a b : Nat} (v : Byte) (h : b ≠ a) :
    (m.write a v).read b = m.read b := by
  induction m with
  | nil => by_cases hv : v = Memory.unlisted <;> simp [Memory.write, Memory.read, hv, h.symm]
  | cons c rest ih =>
    obtain ⟨k, c⟩ := c
    unfold Memory.write
    split_ifs with h1 h2 h3 h4
    · rfl
    · simp [Memory.read, h.symm]
    · subst h3; simp [Memory.read, h.symm]
    · subst h3; simp [Memory.read, h.symm]
    · simp only [Memory.read, ih]

/-- Every entry after a write was there before or is the one written. -/
theorem Memory.mem_write {m : Memory} {a : Nat} {v : Byte} {c : Host.Cell} (h : c ∈ m.write a v) :
    c ∈ m ∨ (c = (a, v) ∧ v ≠ Memory.unlisted) := by
  induction m with
  | nil =>
    unfold Memory.write at h
    split_ifs at h with hv
    · exact .inl h
    · exact .inr ⟨List.mem_singleton.1 h, hv⟩
  | cons d rest ih =>
    obtain ⟨k, b⟩ := d
    unfold Memory.write at h
    split_ifs at h with h1 h2 h3 h4
    · exact .inl h
    · rcases List.mem_cons.1 h with rfl | h
      · exact .inr ⟨rfl, h2⟩
      · exact .inl h
    · exact .inl (List.mem_cons_of_mem _ h)
    · rcases List.mem_cons.1 h with rfl | h
      · exact .inr ⟨rfl, h4⟩
      · exact .inl (List.mem_cons_of_mem _ h)
    · rcases List.mem_cons.1 h with rfl | h
      · exact .inl (List.mem_cons_self ..)
      · exact (ih h).imp (List.mem_cons_of_mem _) id

/-- A write keeps the canonical form. -/
theorem Memory.wf_write {m : Memory} (hm : m.wf) (a : Nat) (v : Byte) : (m.write a v).wf := by
  refine ⟨?_, fun c hc => ?_⟩
  · have h := hm.1
    clear hm
    induction m with
    | nil => unfold Memory.write; split_ifs <;> simp
    | cons d rest ih =>
      obtain ⟨k, b⟩ := d
      have hk := List.pairwise_cons.1 h
      unfold Memory.write
      split_ifs with h1 h2 h3 h4
      · exact h
      · refine List.pairwise_cons.2 ⟨fun c hc => ?_, h⟩
        rcases List.mem_cons.1 hc with rfl | hc
        · exact h1
        · exact h1.trans (hk.1 c hc)
      · exact hk.2
      · exact List.pairwise_cons.2 ⟨fun c hc => h3 ▸ hk.1 c hc, hk.2⟩
      · refine List.pairwise_cons.2 ⟨fun c hc => ?_, ih hk.2⟩
        rcases Memory.mem_write hc with hc | ⟨rfl, -⟩
        · exact hk.1 c hc
        · exact lt_of_le_of_ne (Nat.le_of_not_lt h1) (Ne.symm h3)
  · rcases Memory.mem_write hc with hc | ⟨rfl, hv⟩
    · exact hm.2 c hc
    · exact hv

/-- A byte reads as it was last written. -/
theorem Memory.read_write_self {m : Memory} (hm : m.wf) (a : Nat) (v : Byte) : (m.write a v).read a = v := by
  have h := hm.1
  clear hm
  induction m with
  | nil => unfold Memory.write; split_ifs with hv <;> simp [Memory.read, hv]
  | cons d rest ih =>
    obtain ⟨k, b⟩ := d
    have hk := List.pairwise_cons.1 h
    unfold Memory.write
    split_ifs with h1 h2 h3 h4
    · rw [h2]
      refine Memory.read_eq_unlisted fun c hc => ?_
      rcases List.mem_cons.1 hc with rfl | hc
      · exact (Nat.ne_of_lt h1).symm
      · exact (Nat.ne_of_lt (h1.trans (hk.1 c hc))).symm
    · simp [Memory.read]
    · rw [h4]
      exact Memory.read_eq_unlisted fun c hc => (Nat.ne_of_lt (h3 ▸ hk.1 c hc)).symm
    · simp [Memory.read]
    · simp only [Memory.read, if_neg (Ne.symm h3)]
      exact ih hk.2

/-- Writing a word keeps the canonical form. -/
theorem Memory.wf_writeWord {m : Memory} (hm : m.wf) (a : Nat) (v : Word) : (m.writeWord a v).wf :=
  Memory.wf_write (Memory.wf_write (Memory.wf_write (Memory.wf_write hm _ _) _ _) _ _) _ _

/-- Storing an image keeps the canonical form. -/
theorem Memory.wf_writeWords {m : Memory} (hm : m.wf) (a : Nat) (ws : List Word) : (m.writeWords a ws).wf := by
  induction ws generalizing m a with
  | nil => exact hm
  | cons w ws ih => exact ih (Memory.wf_writeWord hm a w) (a + 4)

/-- Writing a word leaves every byte outside its four. -/
theorem Memory.read_writeWord_outside (m : Memory) {a b : Nat} (v : Word) (h : b < a ∨ a + 4 ≤ b) :
    (m.writeWord a v).read b = m.read b := by
  unfold Memory.writeWord
  rw [Memory.read_write_of_ne _ _ (by omega), Memory.read_write_of_ne _ _ (by omega),
    Memory.read_write_of_ne _ _ (by omega), Memory.read_write_of_ne _ _ (by omega)]

/-- After writing a word its byte `k` reads as bits `8k+7 : 8k` (R31). -/
theorem Memory.read_writeWord_byte {m : Memory} (hm : m.wf) (a : Nat) (v : Word) {k : Nat} (hk : k < 4) :
    (m.writeWord a v).read (a + k) = byteOf v k := by
  have h1 := Memory.wf_write hm a (byteOf v 0)
  have h2 := Memory.wf_write h1 (a + 1) (byteOf v 1)
  have h3 := Memory.wf_write h2 (a + 2) (byteOf v 2)
  unfold Memory.writeWord
  match k, hk with
  | 0, _ =>
    rw [Memory.read_write_of_ne _ _ (by omega), Memory.read_write_of_ne _ _ (by omega),
      Memory.read_write_of_ne _ _ (by omega)]
    exact Memory.read_write_self hm a _
  | 1, _ =>
    rw [Memory.read_write_of_ne _ _ (by omega), Memory.read_write_of_ne _ _ (by omega)]
    exact Memory.read_write_self h1 _ _
  | 2, _ =>
    rw [Memory.read_write_of_ne _ _ (by omega)]
    exact Memory.read_write_self h2 _ _
  | 3, _ => exact Memory.read_write_self h3 _ _

/-- A word put together from its own bytes. -/
theorem wordOfBytes_byteOf (v : Word) : wordOfBytes (byteOf v 0) (byteOf v 1) (byteOf v 2) (byteOf v 3) = v := by
  apply BitVec.eq_of_getLsbD_eq
  intro i hi
  simp only [wordOfBytes, byteOf, BitVec.getLsbD_append, BitVec.getLsbD_extractLsb']
  interval_cases i <;> simp

/-- A word reads as it was last written (R37). -/
theorem Memory.readWord_writeWord_self {m : Memory} (hm : m.wf) (a : Nat) (v : Word) :
    (m.writeWord a v).readWord a = v := by
  have h0 := Memory.read_writeWord_byte hm a v (k := 0) (by omega)
  rw [Nat.add_zero] at h0
  rw [Memory.readWord, h0, Memory.read_writeWord_byte hm a v (k := 1) (by omega),
    Memory.read_writeWord_byte hm a v (k := 2) (by omega), Memory.read_writeWord_byte hm a v (k := 3) (by omega)]
  exact wordOfBytes_byteOf v

/-- Writing a word leaves every word that shares no byte with it. -/
theorem Memory.readWord_writeWord_outside (m : Memory) {a b : Nat} (v : Word) (h : b + 4 ≤ a ∨ a + 4 ≤ b) :
    (m.writeWord a v).readWord b = m.readWord b := by
  unfold Memory.readWord
  rw [Memory.read_writeWord_outside _ _ (by omega), Memory.read_writeWord_outside _ _ (by omega),
    Memory.read_writeWord_outside _ _ (by omega), Memory.read_writeWord_outside _ _ (by omega)]

/-- Writing a word inside the memory lists no address outside it. -/
theorem Memory.writeWord_inRange {m : Memory} {a n : Nat} (v : Word) (hm : ∀ c ∈ m, c.1 < n) (ha : a + 4 ≤ n) :
    ∀ c ∈ m.writeWord a v, c.1 < n := by
  intro c hc
  unfold Memory.writeWord at hc
  rcases Memory.mem_write hc with hc | ⟨rfl, -⟩
  · rcases Memory.mem_write hc with hc | ⟨rfl, -⟩
    · rcases Memory.mem_write hc with hc | ⟨rfl, -⟩
      · rcases Memory.mem_write hc with hc | ⟨rfl, -⟩
        · exact hm c hc
        · dsimp only; omega
      · dsimp only; omega
    · dsimp only; omega
  · dsimp only; omega

end Sys2Proof.Machine
end

