-- ==== Sys2Proof/Laws/State.lean ====
section
/-! SUPPORT. What each update of the state leaves and sets, field by field, so that no proof unfolds a record update. -/

namespace Sys2Proof.Machine

@[simp] theorem State.writeReg_pc (s : State) (r : Reg) (v : Word) : (s.writeReg r v).pc = s.pc := rfl
@[simp] theorem State.writeReg_flags (s : State) (r : Reg) (v : Word) : (s.writeReg r v).flags = s.flags := rfl
@[simp] theorem State.writeReg_status (s : State) (r : Reg) (v : Word) : (s.writeReg r v).status = s.status := rfl
@[simp] theorem State.writeReg_mem (s : State) (r : Reg) (v : Word) : (s.writeReg r v).mem = s.mem := rfl
@[simp] theorem State.writeReg_memSize (s : State) (r : Reg) (v : Word) : (s.writeReg r v).memSize = s.memSize := rfl
@[simp] theorem State.writeReg_cycles (s : State) (r : Reg) (v : Word) : (s.writeReg r v).cycles = s.cycles := rfl
@[simp] theorem State.writeReg_pcPlus4 (s : State) (r : Reg) (v : Word) : (s.writeReg r v).pcPlus4 = s.pcPlus4 := rfl

@[simp] theorem State.jump_regs (s : State) (t : Word) : (s.jump t).regs = s.regs := rfl
@[simp] theorem State.jump_pc (s : State) (t : Word) : (s.jump t).pc = t := rfl
@[simp] theorem State.jump_flags (s : State) (t : Word) : (s.jump t).flags = s.flags := rfl
@[simp] theorem State.jump_status (s : State) (t : Word) : (s.jump t).status = s.status := rfl
@[simp] theorem State.jump_mem (s : State) (t : Word) : (s.jump t).mem = s.mem := rfl
@[simp] theorem State.jump_memSize (s : State) (t : Word) : (s.jump t).memSize = s.memSize := rfl
@[simp] theorem State.jump_cycles (s : State) (t : Word) : (s.jump t).cycles = s.cycles := rfl
@[simp] theorem State.jump_readReg (s : State) (t : Word) (q : Reg) : (s.jump t).readReg q = s.readReg q := rfl

@[simp] theorem State.advance_regs (s : State) : (s.advance).regs = s.regs := rfl
@[simp] theorem State.advance_pc (s : State) : (s.advance).pc = s.pc + 4 := rfl
@[simp] theorem State.advance_flags (s : State) : (s.advance).flags = s.flags := rfl
@[simp] theorem State.advance_status (s : State) : (s.advance).status = s.status := rfl
@[simp] theorem State.advance_mem (s : State) : (s.advance).mem = s.mem := rfl
@[simp] theorem State.advance_memSize (s : State) : (s.advance).memSize = s.memSize := rfl
@[simp] theorem State.advance_cycles (s : State) : (s.advance).cycles = s.cycles := rfl
@[simp] theorem State.advance_readReg (s : State) (q : Reg) : (s.advance).readReg q = s.readReg q := rfl

@[simp] theorem State.setFlags_regs (s : State) (f : Flags) : (s.setFlags f).regs = s.regs := rfl
@[simp] theorem State.setFlags_pc (s : State) (f : Flags) : (s.setFlags f).pc = s.pc := rfl
@[simp] theorem State.setFlags_flags (s : State) (f : Flags) : (s.setFlags f).flags = f := rfl
@[simp] theorem State.setFlags_status (s : State) (f : Flags) : (s.setFlags f).status = s.status := rfl
@[simp] theorem State.setFlags_mem (s : State) (f : Flags) : (s.setFlags f).mem = s.mem := rfl
@[simp] theorem State.setFlags_memSize (s : State) (f : Flags) : (s.setFlags f).memSize = s.memSize := rfl
@[simp] theorem State.setFlags_cycles (s : State) (f : Flags) : (s.setFlags f).cycles = s.cycles := rfl
@[simp] theorem State.setFlags_readReg (s : State) (f : Flags) (q : Reg) : (s.setFlags f).readReg q = s.readReg q := rfl
@[simp] theorem State.setFlags_pcPlus4 (s : State) (f : Flags) : (s.setFlags f).pcPlus4 = s.pcPlus4 := rfl

@[simp] theorem State.halt_regs (s : State) : (s.halt).regs = s.regs := rfl
@[simp] theorem State.halt_pc (s : State) : (s.halt).pc = s.pc := rfl
@[simp] theorem State.halt_flags (s : State) : (s.halt).flags = s.flags := rfl
@[simp] theorem State.halt_status (s : State) : (s.halt).status = .halted := rfl
@[simp] theorem State.halt_mem (s : State) : (s.halt).mem = s.mem := rfl
@[simp] theorem State.halt_memSize (s : State) : (s.halt).memSize = s.memSize := rfl
@[simp] theorem State.halt_cycles (s : State) : (s.halt).cycles = s.cycles := rfl
@[simp] theorem State.halt_readReg (s : State) (q : Reg) : (s.halt).readReg q = s.readReg q := rfl
@[simp] theorem State.halt_pcPlus4 (s : State) : (s.halt).pcPlus4 = s.pcPlus4 := rfl

@[simp] theorem State.countCycle_regs (s : State) : (s.countCycle).regs = s.regs := rfl
@[simp] theorem State.countCycle_pc (s : State) : (s.countCycle).pc = s.pc := rfl
@[simp] theorem State.countCycle_flags (s : State) : (s.countCycle).flags = s.flags := rfl
@[simp] theorem State.countCycle_status (s : State) : (s.countCycle).status = s.status := rfl
@[simp] theorem State.countCycle_mem (s : State) : (s.countCycle).mem = s.mem := rfl
@[simp] theorem State.countCycle_memSize (s : State) : (s.countCycle).memSize = s.memSize := rfl
@[simp] theorem State.countCycle_cycles (s : State) : (s.countCycle).cycles = s.cycles + 1 := rfl
@[simp] theorem State.countCycle_readReg (s : State) (q : Reg) : (s.countCycle).readReg q = s.readReg q := rfl
@[simp] theorem State.countCycle_pcPlus4 (s : State) : (s.countCycle).pcPlus4 = s.pcPlus4 := rfl

@[simp] theorem State.takeFault_regs (s : State) (c : FaultCause) : (s.takeFault c).regs = s.regs := rfl
@[simp] theorem State.takeFault_pc (s : State) (c : FaultCause) : (s.takeFault c).pc = s.pc := rfl
@[simp] theorem State.takeFault_flags (s : State) (c : FaultCause) : (s.takeFault c).flags = s.flags := rfl
@[simp] theorem State.takeFault_status (s : State) (c : FaultCause) : (s.takeFault c).status = .faulted c := rfl
@[simp] theorem State.takeFault_mem (s : State) (c : FaultCause) : (s.takeFault c).mem = s.mem := rfl
@[simp] theorem State.takeFault_memSize (s : State) (c : FaultCause) : (s.takeFault c).memSize = s.memSize := rfl
@[simp] theorem State.takeFault_cycles (s : State) (c : FaultCause) : (s.takeFault c).cycles = s.cycles := rfl
@[simp] theorem State.takeFault_readReg (s : State) (c : FaultCause) (q : Reg) : (s.takeFault c).readReg q = s.readReg q := rfl
@[simp] theorem State.takeFault_pcPlus4 (s : State) (c : FaultCause) : (s.takeFault c).pcPlus4 = s.pcPlus4 := rfl

@[simp] theorem State.setMem_readReg (s : State) (m : Memory) (q : Reg) : ({ s with mem := m } : State).readReg q = s.readReg q := rfl

/-- The fetch-incremented PC is `pc + 4` (R15). -/
theorem State.pcPlus4_eq (s : State) : s.pcPlus4 = s.pc + 4 := rfl

/-- A register reads what was last written to it, `r0` too (R12, R13). -/
@[simp] theorem State.writeReg_readReg_self (s : State) (r : Reg) (v : Word) : (s.writeReg r v).readReg r = v := by
  simp [State.readReg, State.writeReg]

/-- Writing a register leaves every other register (R12). -/
theorem State.writeReg_readReg_of_ne (s : State) {r q : Reg} (v : Word) (h : q ≠ r) :
    (s.writeReg r v).readReg q = s.readReg q := by
  have hn : r.toNat ≠ q.toNat := fun e => h (BitVec.eq_of_toNat_eq e.symm)
  simp [State.readReg, State.writeReg, hn]

/-- Two states with the same registers, read one by one, have the same register file. -/
theorem State.regs_eq_of_readReg {s t : State} (h : ∀ r, t.readReg r = s.readReg r) : t.regs = s.regs := by
  apply Vector.ext
  intro i hi
  have := h (BitVec.ofNat 4 i)
  simpa [State.readReg, Nat.mod_eq_of_lt hi] using this

end Sys2Proof.Machine
end

