-- ==== Sys2Proof/Laws/Ops.lean ====
section
/-! SUPPORT. What each shared operation can do, said once; the provers cite these instead of unfolding the operations. -/

namespace Sys2Proof.Machine

/-! ### Accesses -/

/-- `addr[1:0]` is 0 exactly when the address is a multiple of 4. -/
theorem lowBits_eq_zero_iff (addr : Word) : addr.extractLsb' 0 2 = 0 ↔ addr.toNat % 4 = 0 := by
  rw [BitVec.toNat_eq]
  simp [BitVec.extractLsb'_toNat]

/-- An access is made exactly when it is aligned and in range (R33, R34). -/
theorem checkAccess_eq_none_iff (k : AccessKind) (addr : Word) (n : Nat) :
    checkAccess k addr n = none ↔ addr.toNat % 4 = 0 ∧ addr.toNat + 4 ≤ n := by
  unfold checkAccess
  simp only [ne_eq, lowBits_eq_zero_iff]
  split_ifs with h1 h2 <;> simp <;> omega

/-- The fault of an access: `MemUnaligned` if it is unaligned, else `MemOutOfBounds` if it is out of range (R35). -/
theorem checkAccess_eq_some_iff (k : AccessKind) (addr : Word) (n : Nat) (c : FaultCause) :
    checkAccess k addr n = some c ↔
      (addr.toNat % 4 ≠ 0 ∧ c = .memUnaligned k addr) ∨
      (addr.toNat % 4 = 0 ∧ n < addr.toNat + 4 ∧ c = .memOutOfBounds k addr) := by
  unfold checkAccess
  simp only [ne_eq, lowBits_eq_zero_iff]
  split_ifs with h1 h2
  · have : n < addr.toNat + 4 := h2
    simp [h1, this, @eq_comm _ c]
  · have : ¬n < addr.toNat + 4 := h2
    simp [h1, this]
  · simp [h1, @eq_comm _ c]

/-- A read answers the word there, if the access is made. -/
theorem State.memRead_eq_ok_iff (s : State) (k : AccessKind) (addr v : Word) :
    s.memRead k addr = .ok v ↔ checkAccess k addr s.memSize = none ∧ v = s.mem.readWord addr.toNat := by
  unfold State.memRead
  cases checkAccess k addr s.memSize <;> simp [eq_comm]

/-- A read fails with the fault of its access. -/
theorem State.memRead_eq_error_iff (s : State) (k : AccessKind) (addr : Word) (c : FaultCause) :
    s.memRead k addr = .error c ↔ checkAccess k addr s.memSize = some c := by
  unfold State.memRead
  cases checkAccess k addr s.memSize <;> simp

/-- A write stores the word, if the access is made. -/
theorem State.memWrite_eq_ok_iff (s t : State) (addr v : Word) :
    s.memWrite addr v = .ok t ↔
      checkAccess .store addr s.memSize = none ∧ t = { s with mem := s.mem.writeWord addr.toNat v } := by
  unfold State.memWrite
  cases checkAccess .store addr s.memSize <;> simp [eq_comm]

/-- A write fails with the fault of its access. -/
theorem State.memWrite_eq_error_iff (s : State) (addr v : Word) (c : FaultCause) :
    s.memWrite addr v = .error c ↔ checkAccess .store addr s.memSize = some c := by
  unfold State.memWrite
  cases checkAccess .store addr s.memSize <;> simp

/-- The fetch is made exactly when `pc` is aligned and in range (R16). -/
theorem State.fetchable_iff (s : State) : s.fetchable = true ↔ s.pc.toNat % 4 = 0 ∧ s.pc.toNat + 4 ≤ s.memSize := by
  rw [State.fetchable, Option.isNone_iff_eq_none, checkAccess_eq_none_iff]

/-- Fetch and decode answer an instruction exactly when the fetch is made and the word there decodes to it. -/
theorem State.fetchDecode_eq_ok_iff (s : State) (i : Instr) :
    s.fetchDecode = .ok i ↔ s.fetchable = true ∧ decode (s.mem.readWord s.pc.toNat) = .instr i := by
  unfold State.fetchDecode State.memRead State.fetchable
  cases checkAccess .fetch s.pc s.memSize with
  | some c => simp
  | none => cases h : decode (s.mem.readWord s.pc.toNat) <;> simp [h]

/-- Decoding fails with the word it was given. -/
theorem decode_unknownOpcode_eq {w v : Word} (h : decode w = .unknownOpcode v) : v = w := by
  unfold decode decodeAlu decodeImmOnly decodeImm at h
  dsimp only at h
  split at h <;> (try split at h) <;> (try split at h) <;> simp_all

/-- Decoding fails with the word it was given. -/
theorem decode_reserved_eq {w v : Word} (h : decode w = .reserved v) : v = w := by
  unfold decode decodeAlu decodeImmOnly decodeImm at h
  dsimp only at h
  split at h <;> (try split at h) <;> (try split at h) <;> simp_all

/-- Fetch and decode fail with the first fault of the two phases (R167). -/
theorem State.fetchDecode_eq_error_iff (s : State) (c : FaultCause) :
    s.fetchDecode = .error c ↔
      checkAccess .fetch s.pc s.memSize = some c ∨
      (s.fetchable = true ∧
        ((c = .decodeUnknownOpcode (s.mem.readWord s.pc.toNat) ∧
            decode (s.mem.readWord s.pc.toNat) = .unknownOpcode (s.mem.readWord s.pc.toNat)) ∨
          (c = .decodeReserved (s.mem.readWord s.pc.toNat) ∧
            decode (s.mem.readWord s.pc.toNat) = .reserved (s.mem.readWord s.pc.toNat)))) := by
  unfold State.fetchDecode State.memRead State.fetchable
  cases checkAccess .fetch s.pc s.memSize with
  | some c' => simp
  | none =>
    cases h : decode (s.mem.readWord s.pc.toNat) with
    | instr i => simp [h]
    | unknownOpcode v => obtain rfl := decode_unknownOpcode_eq h; simp [h, eq_comm]
    | reserved v => obtain rfl := decode_reserved_eq h; simp [h, eq_comm]

/-! ### Ends of instructions -/

/-- A load writes the word it read and goes on, or takes the fault of its access (R116). -/
theorem loadWord_cases (rd : Reg) (ea : Word) (s : State) :
    (checkAccess .load ea s.memSize = none ∧
      loadWord rd ea s = .next (s.writeReg rd (s.mem.readWord ea.toNat)).advance) ∨
    ∃ c, checkAccess .load ea s.memSize = some c ∧ loadWord rd ea s = .next (s.takeFault c) := by
  unfold loadWord State.memRead writeAndAdvance
  cases checkAccess .load ea s.memSize <;> simp

/-- A store changes the four bytes of its word and goes on, or takes the fault of its access (R117). -/
theorem storeWord_cases (ea v : Word) (s : State) :
    (checkAccess .store ea s.memSize = none ∧
      storeWord ea v s = .next (State.advance { s with mem := s.mem.writeWord ea.toNat v })) ∨
    ∃ c, checkAccess .store ea s.memSize = some c ∧ storeWord ea v s = .next (s.takeFault c) := by
  unfold storeWord State.memWrite
  cases checkAccess .store ea s.memSize <;> simp

/-- A branch goes to its target if the condition holds and to `pc + 4` if not. -/
theorem branchIf_eq (cond : Bool) (boff : Word) (s : State) :
    branchIf cond boff s = .next (s.jump (if cond then branchTarget s boff else s.pcPlus4)) := by
  cases cond <;> rfl

/-- Everything executing an instruction can do. -/
inductive ExecEffect (i : Instr) (s : State) : State → Prop where
  /-- An ALU instruction, or a load that is made, writes its destination register and goes on. -/
  | wroteReg (rd : Reg) (v : Word) (hd : i.dest = some rd)
      (hc : i.instrClass = .arithmetic ∨ i.instrClass = .logical ∨ i.instrClass = .load) :
      ExecEffect i s (s.writeReg rd v).advance
  /-- A compare latches both flags and goes on. -/
  | compared (a b : Word) (hd : i.dest = none) (hc : i.instrClass = .compare) :
      ExecEffect i s (s.setFlags (compareFlags a b)).advance
  /-- A store that is made changes one aligned word and goes on. -/
  | stored (ea v : Word) (ha : checkAccess .store ea s.memSize = none) (hd : i.dest = none)
      (hc : i.instrClass = .store) : ExecEffect i s (State.advance { s with mem := s.mem.writeWord ea.toNat v })
  /-- A load that is not made takes the fault of its access. -/
  | loadFault (ea : Word) (c : FaultCause) (ha : checkAccess .load ea s.memSize = some c) (hc : i.instrClass = .load) :
      ExecEffect i s (s.takeFault c)
  /-- A store that is not made takes the fault of its access. -/
  | storeFault (ea : Word) (c : FaultCause) (ha : checkAccess .store ea s.memSize = some c)
      (hc : i.instrClass = .store) : ExecEffect i s (s.takeFault c)
  /-- A conditional or unconditional branch goes to its target or on. -/
  | branched (boff t : Word) (ht : t = branchTarget s boff ∨ t = s.pcPlus4) (hw : i.wf = boffWf boff)
      (hd : i.dest = none) (hc : i.instrClass = .branch) : ExecEffect i s (s.jump t)
  /-- `call` writes the link register and goes to its target. -/
  | called (boff : Word) (hi : i = .call boff) :
      ExecEffect i s ((s.writeReg Config.linkReg s.pcPlus4).jump (branchTarget s boff))
  /-- `ret` goes where the link register says. -/
  | returned (hi : i = .ret) : ExecEffect i s (s.jump (s.readReg Config.linkReg))
  /-- `nop` goes on. -/
  | passed (hi : i = .nop) : ExecEffect i s s.advance
  /-- `hlt` halts. -/
  | halted (hi : i = .hlt) : ExecEffect i s s.halt

/-- A load's meaning has a listed effect. -/
theorem load_effect {i : Instr} {s : State} {rd : Reg} {ea : Word} (hx : exec i s = loadWord rd ea s)
    (h : (checkAccess .load ea s.memSize = none ∧
        loadWord rd ea s = .next (s.writeReg rd (s.mem.readWord ea.toNat)).advance) ∨
      ∃ c, checkAccess .load ea s.memSize = some c ∧ loadWord rd ea s = .next (s.takeFault c))
    (hd : i.dest = some rd) (hc : i.instrClass = .load) : ∃ t, exec i s = .next t ∧ ExecEffect i s t := by
  rcases h with ⟨-, h⟩ | ⟨c, ha, h⟩
  · exact ⟨_, hx.trans h, .wroteReg rd _ hd (.inr (.inr hc))⟩
  · exact ⟨_, hx.trans h, .loadFault ea c ha hc⟩

/-- A store's meaning has a listed effect. -/
theorem store_effect {i : Instr} {s : State} {ea v : Word} (hx : exec i s = storeWord ea v s)
    (h : (checkAccess .store ea s.memSize = none ∧
        storeWord ea v s = .next (State.advance { s with mem := s.mem.writeWord ea.toNat v })) ∨
      ∃ c, checkAccess .store ea s.memSize = some c ∧ storeWord ea v s = .next (s.takeFault c))
    (hd : i.dest = none) (hc : i.instrClass = .store) : ∃ t, exec i s = .next t ∧ ExecEffect i s t := by
  rcases h with ⟨ha, h⟩ | ⟨c, ha, h⟩
  · exact ⟨_, hx.trans h, .stored ea v ha hd hc⟩
  · exact ⟨_, hx.trans h, .storeFault ea c ha hc⟩

/-- Executing an instruction always answers a next state, and it is one of the listed effects. -/
theorem exec_effect (i : Instr) (s : State) : ∃ t, exec i s = .next t ∧ ExecEffect i s t := by
  cases i with
  | addR rd rs1 rs2 => exact ⟨_, rfl, .wroteReg rd _ rfl (.inl rfl)⟩
  | addI rd rs1 imm => exact ⟨_, rfl, .wroteReg rd _ rfl (.inl rfl)⟩
  | addu rd rs1 imm => exact ⟨_, rfl, .wroteReg rd _ rfl (.inl rfl)⟩
  | addh rd rs1 imm => exact ⟨_, rfl, .wroteReg rd _ rfl (.inl rfl)⟩
  | subR rd rs1 rs2 => exact ⟨_, rfl, .wroteReg rd _ rfl (.inl rfl)⟩
  | subI rd rs1 imm => exact ⟨_, rfl, .wroteReg rd _ rfl (.inl rfl)⟩
  | subu rd rs1 imm => exact ⟨_, rfl, .wroteReg rd _ rfl (.inl rfl)⟩
  | subh rd rs1 imm => exact ⟨_, rfl, .wroteReg rd _ rfl (.inl rfl)⟩
  | mulR rd rs1 rs2 => exact ⟨_, rfl, .wroteReg rd _ rfl (.inl rfl)⟩
  | mulI rd rs1 imm => exact ⟨_, rfl, .wroteReg rd _ rfl (.inl rfl)⟩
  | mulu rd rs1 imm => exact ⟨_, rfl, .wroteReg rd _ rfl (.inl rfl)⟩
  | mulh rd rs1 imm => exact ⟨_, rfl, .wroteReg rd _ rfl (.inl rfl)⟩
  | divR rd rs1 rs2 => exact ⟨_, rfl, .wroteReg rd _ rfl (.inl rfl)⟩
  | divI rd rs1 imm => exact ⟨_, rfl, .wroteReg rd _ rfl (.inl rfl)⟩
  | divu rd rs1 imm => exact ⟨_, rfl, .wroteReg rd _ rfl (.inl rfl)⟩
  | divh rd rs1 imm => exact ⟨_, rfl, .wroteReg rd _ rfl (.inl rfl)⟩
  | modR rd rs1 rs2 => exact ⟨_, rfl, .wroteReg rd _ rfl (.inl rfl)⟩
  | modI rd rs1 imm => exact ⟨_, rfl, .wroteReg rd _ rfl (.inl rfl)⟩
  | modu rd rs1 imm => exact ⟨_, rfl, .wroteReg rd _ rfl (.inl rfl)⟩
  | modh rd rs1 imm => exact ⟨_, rfl, .wroteReg rd _ rfl (.inl rfl)⟩
  | cmpR rs1 rs2 => exact ⟨_, rfl, .compared _ _ rfl rfl⟩
  | cmpI rs1 imm => exact ⟨_, rfl, .compared _ _ rfl rfl⟩
  | cmpu rs1 imm => exact ⟨_, rfl, .compared _ _ rfl rfl⟩
  | cmph rs1 imm => exact ⟨_, rfl, .compared _ _ rfl rfl⟩
  | andR rd rs1 rs2 => exact ⟨_, rfl, .wroteReg rd _ rfl (.inr (.inl rfl))⟩
  | andI rd rs1 imm => exact ⟨_, rfl, .wroteReg rd _ rfl (.inr (.inl rfl))⟩
  | andu rd rs1 imm => exact ⟨_, rfl, .wroteReg rd _ rfl (.inr (.inl rfl))⟩
  | andh rd rs1 imm => exact ⟨_, rfl, .wroteReg rd _ rfl (.inr (.inl rfl))⟩
  | orR rd rs1 rs2 => exact ⟨_, rfl, .wroteReg rd _ rfl (.inr (.inl rfl))⟩
  | orI rd rs1 imm => exact ⟨_, rfl, .wroteReg rd _ rfl (.inr (.inl rfl))⟩
  | oru rd rs1 imm => exact ⟨_, rfl, .wroteReg rd _ rfl (.inr (.inl rfl))⟩
  | orh rd rs1 imm => exact ⟨_, rfl, .wroteReg rd _ rfl (.inr (.inl rfl))⟩
  | notR rd rs2 => exact ⟨_, rfl, .wroteReg rd _ rfl (.inr (.inl rfl))⟩
  | notI rd imm => exact ⟨_, rfl, .wroteReg rd _ rfl (.inr (.inl rfl))⟩
  | notu rd imm => exact ⟨_, rfl, .wroteReg rd _ rfl (.inr (.inl rfl))⟩
  | noth rd imm => exact ⟨_, rfl, .wroteReg rd _ rfl (.inr (.inl rfl))⟩
  | movR rd rs2 => exact ⟨_, rfl, .wroteReg rd _ rfl (.inr (.inl rfl))⟩
  | movI rd imm => exact ⟨_, rfl, .wroteReg rd _ rfl (.inr (.inl rfl))⟩
  | movu rd imm => exact ⟨_, rfl, .wroteReg rd _ rfl (.inr (.inl rfl))⟩
  | movh rd imm => exact ⟨_, rfl, .wroteReg rd _ rfl (.inr (.inl rfl))⟩
  | lslR rd rs1 rs2 => exact ⟨_, rfl, .wroteReg rd _ rfl (.inr (.inl rfl))⟩
  | lslI rd rs1 imm => exact ⟨_, rfl, .wroteReg rd _ rfl (.inr (.inl rfl))⟩
  | lslu rd rs1 imm => exact ⟨_, rfl, .wroteReg rd _ rfl (.inr (.inl rfl))⟩
  | lslh rd rs1 imm => exact ⟨_, rfl, .wroteReg rd _ rfl (.inr (.inl rfl))⟩
  | lsrR rd rs1 rs2 => exact ⟨_, rfl, .wroteReg rd _ rfl (.inr (.inl rfl))⟩
  | lsrI rd rs1 imm => exact ⟨_, rfl, .wroteReg rd _ rfl (.inr (.inl rfl))⟩
  | lsru rd rs1 imm => exact ⟨_, rfl, .wroteReg rd _ rfl (.inr (.inl rfl))⟩
  | lsrh rd rs1 imm => exact ⟨_, rfl, .wroteReg rd _ rfl (.inr (.inl rfl))⟩
  | asrR rd rs1 rs2 => exact ⟨_, rfl, .wroteReg rd _ rfl (.inr (.inl rfl))⟩
  | asrI rd rs1 imm => exact ⟨_, rfl, .wroteReg rd _ rfl (.inr (.inl rfl))⟩
  | asru rd rs1 imm => exact ⟨_, rfl, .wroteReg rd _ rfl (.inr (.inl rfl))⟩
  | asrh rd rs1 imm => exact ⟨_, rfl, .wroteReg rd _ rfl (.inr (.inl rfl))⟩
  | ld rd rs1 imm => exact load_effect rfl (loadWord_cases rd _ s) rfl rfl
  | ldu rd rs1 imm => exact load_effect rfl (loadWord_cases rd _ s) rfl rfl
  | ldh rd rs1 imm => exact load_effect rfl (loadWord_cases rd _ s) rfl rfl
  | st rd rs1 imm => exact store_effect rfl (storeWord_cases _ _ s) rfl rfl
  | stu rd rs1 imm => exact store_effect rfl (storeWord_cases _ _ s) rfl rfl
  | sth rd rs1 imm => exact store_effect rfl (storeWord_cases _ _ s) rfl rfl
  | beq boff => exact ⟨_, branchIf_eq _ boff s, .branched boff _ (by split <;> simp) rfl rfl rfl⟩
  | bgt boff => exact ⟨_, branchIf_eq _ boff s, .branched boff _ (by split <;> simp) rfl rfl rfl⟩
  | b boff => exact ⟨_, rfl, .branched boff _ (.inl rfl) rfl rfl rfl⟩
  | call boff => exact ⟨_, rfl, .called boff rfl⟩
  | nop => exact ⟨_, rfl, .passed rfl⟩
  | ret => exact ⟨_, rfl, .returned rfl⟩
  | hlt => exact ⟨_, rfl, .halted rfl⟩

/-- What executing an instruction answers is one of the listed effects. -/
theorem exec_next_effect {i : Instr} {s t : State} (h : exec i s = .next t) : ExecEffect i s t := by
  obtain ⟨u, hu, he⟩ := exec_effect i s
  rw [hu] at h
  cases h
  exact he

/-! ### Steps -/

/-- A step is a cycle of a running core: the instruction at `pc` executes, or the fault of fetch or decode is taken. -/
theorem step_next_cases {s t : State} (h : step s = .next t) :
    s.status = .running ∧
      ((∃ i, s.countCycle.fetchDecode = .ok i ∧ exec i s.countCycle = .next t) ∨
        ∃ c, s.countCycle.fetchDecode = .error c ∧ t = s.countCycle.takeFault c) := by
  unfold step at h
  cases hs : s.status with
  | running =>
    refine ⟨rfl, ?_⟩
    rw [hs] at h
    cases hf : s.countCycle.fetchDecode with
    | ok i => rw [hf] at h; exact .inl ⟨i, rfl, h⟩
    | error c => rw [hf] at h; cases h; exact .inr ⟨c, rfl, rfl⟩
  | halted => rw [hs] at h; cases h
  | faulted c => rw [hs] at h; cases h

/-- A step of a running core, by what fetch and decode answer. -/
theorem step_of_running {s : State} (h : s.status = .running) :
    step s = match s.fetchDecode with
      | .ok i => exec i s.countCycle
      | .error c => .next (s.countCycle.takeFault c) := by
  unfold step
  rw [h]
  rfl

/-- Counting the cycle changes nothing that fetch and decode look at. -/
@[simp] theorem State.countCycle_fetchDecode (s : State) : s.countCycle.fetchDecode = s.fetchDecode := rfl

/-- Counting the cycle changes nothing that a fetch looks at. -/
@[simp] theorem State.countCycle_fetchable (s : State) : s.countCycle.fetchable = s.fetchable := rfl

end Sys2Proof.Machine
end

