-- ==== Sys2Proof/Laws/PerInstr.lean ====
section
/-! SUPPORT. Facts about instructions as syntax, one lemma per constructor. Family `TableRow`: the canonical word of an
instruction lies in its own row of spec/opcode_table.json, `inst & mask = match` (spec/30_encoding.md R60). -/

namespace Sys2Proof.Laws

/-- The mask of an instruction's row of spec/opcode_table.json. -/
def rowMask : Instr → Word
  | .addR _ _ _ => 0xFC000000
  | .addI _ _ _ => 0xFC030000
  | .addu _ _ _ => 0xFC030000
  | .addh _ _ _ => 0xFC030000
  | .subR _ _ _ => 0xFC000000
  | .subI _ _ _ => 0xFC030000
  | .subu _ _ _ => 0xFC030000
  | .subh _ _ _ => 0xFC030000
  | .mulR _ _ _ => 0xFC000000
  | .mulI _ _ _ => 0xFC030000
  | .mulu _ _ _ => 0xFC030000
  | .mulh _ _ _ => 0xFC030000
  | .divR _ _ _ => 0xFC000000
  | .divI _ _ _ => 0xFC030000
  | .divu _ _ _ => 0xFC030000
  | .divh _ _ _ => 0xFC030000
  | .modR _ _ _ => 0xFC000000
  | .modI _ _ _ => 0xFC030000
  | .modu _ _ _ => 0xFC030000
  | .modh _ _ _ => 0xFC030000
  | .cmpR _ _ => 0xFC000000
  | .cmpI _ _ => 0xFC030000
  | .cmpu _ _ => 0xFC030000
  | .cmph _ _ => 0xFC030000
  | .andR _ _ _ => 0xFC000000
  | .andI _ _ _ => 0xFC030000
  | .andu _ _ _ => 0xFC030000
  | .andh _ _ _ => 0xFC030000
  | .orR _ _ _ => 0xFC000000
  | .orI _ _ _ => 0xFC030000
  | .oru _ _ _ => 0xFC030000
  | .orh _ _ _ => 0xFC030000
  | .notR _ _ => 0xFC000000
  | .notI _ _ => 0xFC030000
  | .notu _ _ => 0xFC030000
  | .noth _ _ => 0xFC030000
  | .movR _ _ => 0xFC000000
  | .movI _ _ => 0xFC030000
  | .movu _ _ => 0xFC030000
  | .movh _ _ => 0xFC030000
  | .lslR _ _ _ => 0xFC000000
  | .lslI _ _ _ => 0xFC030000
  | .lslu _ _ _ => 0xFC030000
  | .lslh _ _ _ => 0xFC030000
  | .lsrR _ _ _ => 0xFC000000
  | .lsrI _ _ _ => 0xFC030000
  | .lsru _ _ _ => 0xFC030000
  | .lsrh _ _ _ => 0xFC030000
  | .asrR _ _ _ => 0xFC000000
  | .asrI _ _ _ => 0xFC030000
  | .asru _ _ _ => 0xFC030000
  | .asrh _ _ _ => 0xFC030000
  | .ld _ _ _ => 0xFC030000
  | .ldu _ _ _ => 0xFC030000
  | .ldh _ _ _ => 0xFC030000
  | .st _ _ _ => 0xFC030000
  | .stu _ _ _ => 0xFC030000
  | .sth _ _ _ => 0xFC030000
  | .beq _ => 0xF8000000
  | .bgt _ => 0xF8000000
  | .b _ => 0xF8000000
  | .call _ => 0xF8000000
  | .nop => 0xF8000000
  | .ret => 0xF8000000
  | .hlt => 0xF8000000

/-- The match value of an instruction's row of spec/opcode_table.json. -/
def rowMatch : Instr → Word
  | .addR _ _ _ => 0x00000000
  | .addI _ _ _ => 0x04000000
  | .addu _ _ _ => 0x04010000
  | .addh _ _ _ => 0x04020000
  | .subR _ _ _ => 0x08000000
  | .subI _ _ _ => 0x0C000000
  | .subu _ _ _ => 0x0C010000
  | .subh _ _ _ => 0x0C020000
  | .mulR _ _ _ => 0x10000000
  | .mulI _ _ _ => 0x14000000
  | .mulu _ _ _ => 0x14010000
  | .mulh _ _ _ => 0x14020000
  | .divR _ _ _ => 0x18000000
  | .divI _ _ _ => 0x1C000000
  | .divu _ _ _ => 0x1C010000
  | .divh _ _ _ => 0x1C020000
  | .modR _ _ _ => 0x20000000
  | .modI _ _ _ => 0x24000000
  | .modu _ _ _ => 0x24010000
  | .modh _ _ _ => 0x24020000
  | .cmpR _ _ => 0x28000000
  | .cmpI _ _ => 0x2C000000
  | .cmpu _ _ => 0x2C010000
  | .cmph _ _ => 0x2C020000
  | .andR _ _ _ => 0x30000000
  | .andI _ _ _ => 0x34000000
  | .andu _ _ _ => 0x34010000
  | .andh _ _ _ => 0x34020000
  | .orR _ _ _ => 0x38000000
  | .orI _ _ _ => 0x3C000000
  | .oru _ _ _ => 0x3C010000
  | .orh _ _ _ => 0x3C020000
  | .notR _ _ => 0x40000000
  | .notI _ _ => 0x44000000
  | .notu _ _ => 0x44010000
  | .noth _ _ => 0x44020000
  | .movR _ _ => 0x48000000
  | .movI _ _ => 0x4C000000
  | .movu _ _ => 0x4C010000
  | .movh _ _ => 0x4C020000
  | .lslR _ _ _ => 0x50000000
  | .lslI _ _ _ => 0x54000000
  | .lslu _ _ _ => 0x54010000
  | .lslh _ _ _ => 0x54020000
  | .lsrR _ _ _ => 0x58000000
  | .lsrI _ _ _ => 0x5C000000
  | .lsru _ _ _ => 0x5C010000
  | .lsrh _ _ _ => 0x5C020000
  | .asrR _ _ _ => 0x60000000
  | .asrI _ _ _ => 0x64000000
  | .asru _ _ _ => 0x64010000
  | .asrh _ _ _ => 0x64020000
  | .ld _ _ _ => 0x74000000
  | .ldu _ _ _ => 0x74010000
  | .ldh _ _ _ => 0x74020000
  | .st _ _ _ => 0x7C000000
  | .stu _ _ _ => 0x7C010000
  | .sth _ _ _ => 0x7C020000
  | .beq _ => 0x80000000
  | .bgt _ => 0x88000000
  | .b _ => 0x90000000
  | .call _ => 0x98000000
  | .nop => 0x68000000
  | .ret => 0xA0000000
  | .hlt => 0xF8000000

/-- Masking a format R word leaves opcode and I bit (R52). -/
theorem encodeR_row (op : BitVec 5) (rd rs1 rs2 : Reg) :
    encodeR op rd rs1 rs2 &&& 0xFC000000 = op ++ 0#27 := by
  apply BitVec.eq_of_getLsbD_eq
  intro i hi
  simp only [encodeR, BitVec.getLsbD_and, BitVec.getLsbD_append]
  interval_cases i <;> simp

/-- Masking a format I word leaves opcode, I bit and modifier (R53). -/
theorem encodeI_row (op : BitVec 5) (rd rs1 : Reg) (m : BitVec 2) (imm : Imm16) :
    encodeI op rd rs1 m imm &&& 0xFC030000 = op ++ 1#1 ++ 0#8 ++ m ++ 0#16 := by
  apply BitVec.eq_of_getLsbD_eq
  intro i hi
  simp only [encodeI, BitVec.getLsbD_and, BitVec.getLsbD_append]
  interval_cases i <;> simp

/-- Masking a format B word leaves the opcode (R54). -/
theorem encodeB_row (op : BitVec 5) (boff : Word) : encodeB op boff &&& 0xF8000000 = op ++ 0#27 := by
  apply BitVec.eq_of_getLsbD_eq
  intro i hi
  simp only [encodeB, BitVec.getLsbD_and, BitVec.getLsbD_append]
  interval_cases i <;> simp

/-- The instruction's canonical word lies in its row of the table. -/
def TableRow.Statement (i : Instr) : Prop := encode i &&& rowMask i = rowMatch i

theorem TableRow.addR (rd rs1 rs2 : Reg) : TableRow.Statement (.addR rd rs1 rs2) := encodeR_row _ _ _ _
theorem TableRow.addI (rd rs1 : Reg) (imm : Imm16) : TableRow.Statement (.addI rd rs1 imm) := encodeI_row _ _ _ _ _
theorem TableRow.addu (rd rs1 : Reg) (imm : Imm16) : TableRow.Statement (.addu rd rs1 imm) := encodeI_row _ _ _ _ _
theorem TableRow.addh (rd rs1 : Reg) (imm : Imm16) : TableRow.Statement (.addh rd rs1 imm) := encodeI_row _ _ _ _ _
theorem TableRow.subR (rd rs1 rs2 : Reg) : TableRow.Statement (.subR rd rs1 rs2) := encodeR_row _ _ _ _
theorem TableRow.subI (rd rs1 : Reg) (imm : Imm16) : TableRow.Statement (.subI rd rs1 imm) := encodeI_row _ _ _ _ _
theorem TableRow.subu (rd rs1 : Reg) (imm : Imm16) : TableRow.Statement (.subu rd rs1 imm) := encodeI_row _ _ _ _ _
theorem TableRow.subh (rd rs1 : Reg) (imm : Imm16) : TableRow.Statement (.subh rd rs1 imm) := encodeI_row _ _ _ _ _
theorem TableRow.mulR (rd rs1 rs2 : Reg) : TableRow.Statement (.mulR rd rs1 rs2) := encodeR_row _ _ _ _
theorem TableRow.mulI (rd rs1 : Reg) (imm : Imm16) : TableRow.Statement (.mulI rd rs1 imm) := encodeI_row _ _ _ _ _
theorem TableRow.mulu (rd rs1 : Reg) (imm : Imm16) : TableRow.Statement (.mulu rd rs1 imm) := encodeI_row _ _ _ _ _
theorem TableRow.mulh (rd rs1 : Reg) (imm : Imm16) : TableRow.Statement (.mulh rd rs1 imm) := encodeI_row _ _ _ _ _
theorem TableRow.divR (rd rs1 rs2 : Reg) : TableRow.Statement (.divR rd rs1 rs2) := encodeR_row _ _ _ _
theorem TableRow.divI (rd rs1 : Reg) (imm : Imm16) : TableRow.Statement (.divI rd rs1 imm) := encodeI_row _ _ _ _ _
theorem TableRow.divu (rd rs1 : Reg) (imm : Imm16) : TableRow.Statement (.divu rd rs1 imm) := encodeI_row _ _ _ _ _
theorem TableRow.divh (rd rs1 : Reg) (imm : Imm16) : TableRow.Statement (.divh rd rs1 imm) := encodeI_row _ _ _ _ _
theorem TableRow.modR (rd rs1 rs2 : Reg) : TableRow.Statement (.modR rd rs1 rs2) := encodeR_row _ _ _ _
theorem TableRow.modI (rd rs1 : Reg) (imm : Imm16) : TableRow.Statement (.modI rd rs1 imm) := encodeI_row _ _ _ _ _
theorem TableRow.modu (rd rs1 : Reg) (imm : Imm16) : TableRow.Statement (.modu rd rs1 imm) := encodeI_row _ _ _ _ _
theorem TableRow.modh (rd rs1 : Reg) (imm : Imm16) : TableRow.Statement (.modh rd rs1 imm) := encodeI_row _ _ _ _ _
theorem TableRow.cmpR (rs1 rs2 : Reg) : TableRow.Statement (.cmpR rs1 rs2) := encodeR_row _ _ _ _
theorem TableRow.cmpI (rs1 : Reg) (imm : Imm16) : TableRow.Statement (.cmpI rs1 imm) := encodeI_row _ _ _ _ _
theorem TableRow.cmpu (rs1 : Reg) (imm : Imm16) : TableRow.Statement (.cmpu rs1 imm) := encodeI_row _ _ _ _ _
theorem TableRow.cmph (rs1 : Reg) (imm : Imm16) : TableRow.Statement (.cmph rs1 imm) := encodeI_row _ _ _ _ _
theorem TableRow.andR (rd rs1 rs2 : Reg) : TableRow.Statement (.andR rd rs1 rs2) := encodeR_row _ _ _ _
theorem TableRow.andI (rd rs1 : Reg) (imm : Imm16) : TableRow.Statement (.andI rd rs1 imm) := encodeI_row _ _ _ _ _
theorem TableRow.andu (rd rs1 : Reg) (imm : Imm16) : TableRow.Statement (.andu rd rs1 imm) := encodeI_row _ _ _ _ _
theorem TableRow.andh (rd rs1 : Reg) (imm : Imm16) : TableRow.Statement (.andh rd rs1 imm) := encodeI_row _ _ _ _ _
theorem TableRow.orR (rd rs1 rs2 : Reg) : TableRow.Statement (.orR rd rs1 rs2) := encodeR_row _ _ _ _
theorem TableRow.orI (rd rs1 : Reg) (imm : Imm16) : TableRow.Statement (.orI rd rs1 imm) := encodeI_row _ _ _ _ _
theorem TableRow.oru (rd rs1 : Reg) (imm : Imm16) : TableRow.Statement (.oru rd rs1 imm) := encodeI_row _ _ _ _ _
theorem TableRow.orh (rd rs1 : Reg) (imm : Imm16) : TableRow.Statement (.orh rd rs1 imm) := encodeI_row _ _ _ _ _
theorem TableRow.notR (rd rs2 : Reg) : TableRow.Statement (.notR rd rs2) := encodeR_row _ _ _ _
theorem TableRow.notI (rd : Reg) (imm : Imm16) : TableRow.Statement (.notI rd imm) := encodeI_row _ _ _ _ _
theorem TableRow.notu (rd : Reg) (imm : Imm16) : TableRow.Statement (.notu rd imm) := encodeI_row _ _ _ _ _
theorem TableRow.noth (rd : Reg) (imm : Imm16) : TableRow.Statement (.noth rd imm) := encodeI_row _ _ _ _ _
theorem TableRow.movR (rd rs2 : Reg) : TableRow.Statement (.movR rd rs2) := encodeR_row _ _ _ _
theorem TableRow.movI (rd : Reg) (imm : Imm16) : TableRow.Statement (.movI rd imm) := encodeI_row _ _ _ _ _
theorem TableRow.movu (rd : Reg) (imm : Imm16) : TableRow.Statement (.movu rd imm) := encodeI_row _ _ _ _ _
theorem TableRow.movh (rd : Reg) (imm : Imm16) : TableRow.Statement (.movh rd imm) := encodeI_row _ _ _ _ _
theorem TableRow.lslR (rd rs1 rs2 : Reg) : TableRow.Statement (.lslR rd rs1 rs2) := encodeR_row _ _ _ _
theorem TableRow.lslI (rd rs1 : Reg) (imm : Imm16) : TableRow.Statement (.lslI rd rs1 imm) := encodeI_row _ _ _ _ _
theorem TableRow.lslu (rd rs1 : Reg) (imm : Imm16) : TableRow.Statement (.lslu rd rs1 imm) := encodeI_row _ _ _ _ _
theorem TableRow.lslh (rd rs1 : Reg) (imm : Imm16) : TableRow.Statement (.lslh rd rs1 imm) := encodeI_row _ _ _ _ _
theorem TableRow.lsrR (rd rs1 rs2 : Reg) : TableRow.Statement (.lsrR rd rs1 rs2) := encodeR_row _ _ _ _
theorem TableRow.lsrI (rd rs1 : Reg) (imm : Imm16) : TableRow.Statement (.lsrI rd rs1 imm) := encodeI_row _ _ _ _ _
theorem TableRow.lsru (rd rs1 : Reg) (imm : Imm16) : TableRow.Statement (.lsru rd rs1 imm) := encodeI_row _ _ _ _ _
theorem TableRow.lsrh (rd rs1 : Reg) (imm : Imm16) : TableRow.Statement (.lsrh rd rs1 imm) := encodeI_row _ _ _ _ _
theorem TableRow.asrR (rd rs1 rs2 : Reg) : TableRow.Statement (.asrR rd rs1 rs2) := encodeR_row _ _ _ _
theorem TableRow.asrI (rd rs1 : Reg) (imm : Imm16) : TableRow.Statement (.asrI rd rs1 imm) := encodeI_row _ _ _ _ _
theorem TableRow.asru (rd rs1 : Reg) (imm : Imm16) : TableRow.Statement (.asru rd rs1 imm) := encodeI_row _ _ _ _ _
theorem TableRow.asrh (rd rs1 : Reg) (imm : Imm16) : TableRow.Statement (.asrh rd rs1 imm) := encodeI_row _ _ _ _ _
theorem TableRow.ld (rd rs1 : Reg) (imm : Imm16) : TableRow.Statement (.ld rd rs1 imm) := encodeI_row _ _ _ _ _
theorem TableRow.ldu (rd rs1 : Reg) (imm : Imm16) : TableRow.Statement (.ldu rd rs1 imm) := encodeI_row _ _ _ _ _
theorem TableRow.ldh (rd rs1 : Reg) (imm : Imm16) : TableRow.Statement (.ldh rd rs1 imm) := encodeI_row _ _ _ _ _
theorem TableRow.st (rd rs1 : Reg) (imm : Imm16) : TableRow.Statement (.st rd rs1 imm) := encodeI_row _ _ _ _ _
theorem TableRow.stu (rd rs1 : Reg) (imm : Imm16) : TableRow.Statement (.stu rd rs1 imm) := encodeI_row _ _ _ _ _
theorem TableRow.sth (rd rs1 : Reg) (imm : Imm16) : TableRow.Statement (.sth rd rs1 imm) := encodeI_row _ _ _ _ _
theorem TableRow.beq (boff : Word) : TableRow.Statement (.beq boff) := encodeB_row _ _
theorem TableRow.bgt (boff : Word) : TableRow.Statement (.bgt boff) := encodeB_row _ _
theorem TableRow.b (boff : Word) : TableRow.Statement (.b boff) := encodeB_row _ _
theorem TableRow.call (boff : Word) : TableRow.Statement (.call boff) := encodeB_row _ _
theorem TableRow.nop : TableRow.Statement .nop := rfl
theorem TableRow.ret : TableRow.Statement .ret := rfl
theorem TableRow.hlt : TableRow.Statement .hlt := rfl

end Sys2Proof.Laws
end

