-- ==== Sys2Proof/Tests/Slice0.lean ====
section
/-! SUPPORT. The model's own tests, one step each. Expected values are those of spec/95_test_vectors.md (the vector is
named), or worked out by hand from the rule named. Then one witness per statement that has hypotheses: a concrete state and
operands that meet all of them. -/

namespace Sys2Proof.Tests

open Sys2Proof Sys2Proof.Machine

/-! ### Well-formedness: an ill-formed term for each check -/

theorem test_boff_unaligned_refused : (Instr.beq 2).wf = false ∧ boffAligned 2 = false ∧ boffInRange 2 = true := by decide

theorem test_boff_too_far_forward_refused :
    (Instr.b 0x10000000).wf = false ∧ boffAligned 0x10000000 = true ∧ boffInRange 0x10000000 = false := by decide

theorem test_boff_too_far_backward_refused :
    (Instr.call 0xEFFFFFFC).wf = false ∧ boffAligned 0xEFFFFFFC = true ∧ boffInRange 0xEFFFFFFC = false := by decide

theorem test_boff_extremes_accepted : (Instr.bgt 0x0FFFFFFC).wf = true ∧ (Instr.bgt 0xF0000000).wf = true := by decide

/-! ### Decoding: a word for every constructor. Hexadecimal words are vectors V-ENC1 to V-ENC28; words in binary are
written out from the formats R52 and R53 with the opcode of R60: opcode, I, rd, rs1, modifier, imm16. -/

theorem test_decode_add :
    decode 0x0048C000 = .instr (.addR 1 2 3) ∧
    decode 0x0448FFFB = .instr (.addI 1 2 0xFFFB) ∧
    decode 0x0449FFFF = .instr (.addu 1 2 0xFFFF) ∧
    decode 0x044A1234 = .instr (.addh 1 2 0x1234) := by decide

theorem test_decode_sub :
    decode 0x09158000 = .instr (.subR 4 5 6) ∧
    decode 0x0D140001 = .instr (.subI 4 5 1) ∧
    decode 0b00001_1_0101_1010_01_1000000000000001 = .instr (.subu 5 10 0x8001) ∧
    decode 0b00001_1_0101_1010_10_1000000000000001 = .instr (.subh 5 10 0x8001) := by decide

theorem test_decode_mul :
    decode 0x10448000 = .instr (.mulR 1 1 2) ∧
    decode 0x14D0FFFF = .instr (.mulI 3 4 0xFFFF) ∧
    decode 0b00010_1_0101_1010_01_1000000000000001 = .instr (.mulu 5 10 0x8001) ∧
    decode 0b00010_1_0101_1010_10_1000000000000001 = .instr (.mulh 5 10 0x8001) := by decide

theorem test_decode_div :
    decode 0x18C48000 = .instr (.divR 3 1 2) ∧
    decode 0x1CC40007 = .instr (.divI 3 1 7) ∧
    decode 0b00011_1_0101_1010_01_1000000000000001 = .instr (.divu 5 10 0x8001) ∧
    decode 0b00011_1_0101_1010_10_1000000000000001 = .instr (.divh 5 10 0x8001) := by decide

theorem test_decode_mod :
    decode 0x20C48000 = .instr (.modR 3 1 2) ∧
    decode 0x24C40007 = .instr (.modI 3 1 7) ∧
    decode 0b00100_1_0101_1010_01_1000000000000001 = .instr (.modu 5 10 0x8001) ∧
    decode 0b00100_1_0101_1010_10_1000000000000001 = .instr (.modh 5 10 0x8001) := by decide

theorem test_decode_cmp :
    decode 0x2808C000 = .instr (.cmpR 2 3) ∧
    decode 0x2C080001 = .instr (.cmpI 2 1) ∧
    decode 0b00101_1_0000_1010_01_1000000000000001 = .instr (.cmpu 10 0x8001) ∧
    decode 0b00101_1_0000_1010_10_1000000000000001 = .instr (.cmph 10 0x8001) := by decide

theorem test_decode_and :
    decode 0x3048C000 = .instr (.andR 1 2 3) ∧
    decode 0b00110_1_0101_1010_00_1000000000000001 = .instr (.andI 5 10 0x8001) ∧
    decode 0x3449FF00 = .instr (.andu 1 2 0xFF00) ∧
    decode 0b00110_1_0101_1010_10_1000000000000001 = .instr (.andh 5 10 0x8001) := by decide

theorem test_decode_or :
    decode 0x38004000 = .instr (.orR 0 0 1) ∧
    decode 0b00111_1_0101_1010_00_1000000000000001 = .instr (.orI 5 10 0x8001) ∧
    decode 0x3C45BEEF = .instr (.oru 1 1 0xBEEF) ∧
    decode 0b00111_1_0101_1010_10_1000000000000001 = .instr (.orh 5 10 0x8001) := by decide

theorem test_decode_not :
    decode 0x40408000 = .instr (.notR 1 2) ∧
    decode 0x44400000 = .instr (.notI 1 0) ∧
    decode 0b01000_1_0101_0000_01_1000000000000001 = .instr (.notu 5 0x8001) ∧
    decode 0b01000_1_0101_0000_10_1000000000000001 = .instr (.noth 5 0x8001) := by decide

theorem test_decode_mov :
    decode 0x48408000 = .instr (.movR 1 2) ∧
    decode 0x4C40000A = .instr (.movI 1 10) ∧
    decode 0x4C01ABCD = .instr (.movu 0 0xABCD) ∧
    decode 0x4C421234 = .instr (.movh 1 0x1234) := by decide

theorem test_decode_lsl :
    decode 0x50C04000 = .instr (.lslR 3 0 1) ∧
    decode 0x54C00010 = .instr (.lslI 3 0 16) ∧
    decode 0b01010_1_0101_1010_01_1000000000000001 = .instr (.lslu 5 10 0x8001) ∧
    decode 0b01010_1_0101_1010_10_1000000000000001 = .instr (.lslh 5 10 0x8001) := by decide

theorem test_decode_lsr :
    decode 0x58804000 = .instr (.lsrR 2 0 1) ∧
    decode 0x5C800010 = .instr (.lsrI 2 0 16) ∧
    decode 0b01011_1_0101_1010_01_1000000000000001 = .instr (.lsru 5 10 0x8001) ∧
    decode 0b01011_1_0101_1010_10_1000000000000001 = .instr (.lsrh 5 10 0x8001) := by decide

theorem test_decode_asr :
    decode 0x61004000 = .instr (.asrR 4 0 1) ∧
    decode 0x6500001F = .instr (.asrI 4 0 31) ∧
    decode 0b01100_1_0101_1010_01_1000000000000001 = .instr (.asru 5 10 0x8001) ∧
    decode 0b01100_1_0101_1010_10_1000000000000001 = .instr (.asrh 5 10 0x8001) := by decide

theorem test_decode_ld :
    decode 0x75040008 = .instr (.ld 4 1 8) ∧
    decode 0b01110_1_0101_1010_01_1000000000000001 = .instr (.ldu 5 10 0x8001) ∧
    decode 0b01110_1_0101_1010_10_1000000000000001 = .instr (.ldh 5 10 0x8001) := by decide

theorem test_decode_st :
    decode 0x7CC00200 = .instr (.st 3 0 0x200) ∧
    decode 0b01111_1_0101_1010_01_1000000000000001 = .instr (.stu 5 10 0x8001) ∧
    decode 0b01111_1_0101_1010_10_1000000000000001 = .instr (.sth 5 10 0x8001) := by decide

theorem test_decode_beq :
    decode 0x80000005 = .instr (.beq 0x14) := by decide

theorem test_decode_bgt :
    decode 0x8FFFFFFC = .instr (.bgt 0xFFFFFFF0) := by decide

theorem test_decode_b :
    decode 0x97FFFFF9 = .instr (.b 0xFFFFFFE4) := by decide

theorem test_decode_call :
    decode 0x98000002 = .instr (.call 8) := by decide

theorem test_decode_nop :
    decode 0x68000000 = .instr .nop := by decide

theorem test_decode_ret :
    decode 0xA0000000 = .instr .ret := by decide

theorem test_decode_hlt :
    decode 0xF8000000 = .instr .hlt := by decide

/-- V-DEC1 to V-DEC14. -/
theorem test_decode_outcomes :
    decode 0x00000000 = .instr (.addR 0 0 0) ∧ decode 0xFFFFFFFF = .instr .hlt ∧
    decode 0xA8000000 = .unknownOpcode 0xA8000000 ∧ decode 0xF7FFFFFF = .unknownOpcode 0xF7FFFFFF ∧
    decode 0xA7FFFFFF = .instr .ret ∧ decode 0x044B0005 = .reserved 0x044B0005 ∧
    decode 0x044A0005 = .instr (.addh 1 2 5) ∧ decode 0x71040000 = .reserved 0x71040000 ∧
    decode 0x79040000 = .reserved 0x79040000 ∧ decode 0x75040000 = .instr (.ld 4 1 0) ∧
    decode 0x2FC80001 = .instr (.cmpI 2 1) ∧ decode 0x0048FFFF = .instr (.addR 1 2 3) ∧
    decode 0x6FFFFFFF = .instr .nop ∧ decode 0x4C7C000A = .instr (.movI 1 10) := by decide

/-- Round trip of V-ENC words, one a format (R66). -/
theorem test_encode :
    encode (.addR 1 2 3) = 0x0048C000 ∧ encode (.addI 1 2 0xFFFB) = 0x0448FFFB ∧ encode (.ld 2 14 0xFFFC) = 0x74B8FFFC ∧
    encode (.bgt 0xFFFFFFF0) = 0x8FFFFFFC ∧ encode (.b 0xF0000000) = 0x94000000 ∧ encode .hlt = 0xF8000000 ∧
    encode (.cmpI 2 1) = 0x2C080001 ∧ encode (.movI 1 10) = 0x4C40000A := by decide

/-- The host's view of the decoder, and V-DEC8. -/
theorem test_decodeTableWord :
    decodeTableWord 32 0x0048C000 = some (.addR 1 2 3) ∧ decodeTableWord 32 0x71040000 = none := by decide

/-! ### Steps -/

/-- Reset, the given registers, and the instruction word at `pc`. -/
def start (pc : Word) (w : Nat) (regs : List (Reg × Word)) : State :=
  (regs.foldl (fun (s : State) p => s.writeReg p.1 p.2) { State.reset with pc := pc }).withFetchWord 32 w

/-- `start` with a data word in memory. -/
def startWith (w : Nat) (regs : List (Reg × Word)) (a : Nat) (v : Word) : State :=
  let s := start 0 w regs
  { s with mem := s.mem.writeWord a v }

/-- The next state of one step. -/
def next? (s : State) : Option State :=
  match step s with
  | .next t => some t
  | .fault _ => none
  | .refused _ => none

/-- The register `r` after one step of the word `w` at 0. -/
def regAfter (w : Nat) (regs : List (Reg × Word)) (r : Reg) : Option Word := (next? (start 0 w regs)).map (·.readReg r)

/-- pc and status after one step of the word `w` at `pc`. -/
def pcAfter (pc : Word) (w : Nat) (regs : List (Reg × Word)) : Option (Word × Status) :=
  (next? (start pc w regs)).map fun t => (t.pc, t.status)

/-- The flags after one step of `cmp r2, r3`. -/
def flagsAfter (a b : Word) : Option Flags := (next? (start 0 0x2808C000 [(2, a), (3, b)])).map (·.flags)

/-- V-ADD4, V-ADD1, V-ADD5. -/
theorem test_add : regAfter 0x0448FFFB [(2, 3)] 1 = some 0xFFFFFFFE ∧
    regAfter 0x0048C000 [(2, 0x7FFFFFFF), (3, 1)] 1 = some 0x80000000 := by decide
theorem test_add_same_register : regAfter (encode (.addR 1 1 1)).toNat [(1, 0x15)] 1 = some 0x2A := by decide
/-- V-ENC3, V-ENC4 by R57. -/
theorem test_addu_addh : regAfter 0x0449FFFF [(2, 1)] 1 = some 0x10000 ∧
    regAfter 0x044A1234 [(2, 1)] 1 = some 0x12340001 := by decide
/-- R82's example, V-SUB2. -/
theorem test_sub : regAfter 0x0D140001 [(5, 10)] 4 = some 9 ∧
    regAfter 0x0D140001 [(5, 0x80000000)] 4 = some 0x7FFFFFFF := by decide
/-- V-MUL9, V-MUL6. -/
theorem test_mul : regAfter 0x10448000 [(1, 362880), (2, 10)] 1 = some 0x00375F00 ∧
    regAfter 0x10448000 [(1, 0x80000000), (2, 0xFFFFFFFF)] 1 = some 0x80000000 := by decide
/-- V-DIV3, V-DIV8, V-DIV2. -/
theorem test_div : regAfter 0x18C48000 [(1, 7), (2, 0xFFFFFFFE)] 3 = some 0xFFFFFFFD ∧
    regAfter 0x18C48000 [(1, 0x80000000), (2, 0xFFFFFFFF)] 3 = some 0x80000000 := by decide
theorem test_mod : regAfter 0x20C48000 [(1, 7), (2, 0xFFFFFFFE)] 3 = some 1 ∧
    regAfter 0x20C48000 [(1, 0xFFFFFFF9), (2, 2)] 3 = some 0xFFFFFFFF := by decide
/-- V-DIV14: no fault, the core goes on, the rest as always. -/
theorem test_div_by_zero_goes_on : pcAfter 0 0x18C48000 [(1, 7)] = some (4, .running) ∧
    regAfter 0x18C48000 [(1, 7)] 4 = some 0 := by decide
theorem test_div_by_zero_is_free (s : State) (h : s.readReg 2 = 0) :
    ∃ t, exec (.divR 3 1 2) s = .next t ∧ t.readReg 3 = (Config.div0 (s.readReg 1)).q :=
  ⟨_, rfl, by have h' : s.readReg 2#4 = 0#32 := h; simp [aluDiv, h']⟩
/-- V-AND2, V-AND3. -/
theorem test_and : regAfter 0x3449FF00 [(2, 0x1234ABCD)] 1 = some 0xAB00 ∧
    regAfter (encode (.andI 1 2 0xFF00)).toNat [(2, 0x1234ABCD)] 1 = some 0x1234AB00 := by decide
/-- V-OR2. -/
theorem test_or : regAfter 0x38004000 [(0, 0xABCD), (1, 0x12340000)] 0 = some 0x1234ABCD := by decide
/-- V-NOT1, V-NOT2. -/
theorem test_not : regAfter 0x40408000 [(2, 0x0FF00FF0), (1, 5)] 1 = some 0xF00FF00F ∧
    regAfter 0x44400000 [(1, 5)] 1 = some 0xFFFFFFFF := by decide
/-- V-MOV2, V-MOV3, V-MOV4. -/
theorem test_mov : regAfter 0x4C40FFFF [] 1 = some 0xFFFFFFFF ∧ regAfter 0x4C01ABCD [] 0 = some 0xABCD ∧
    regAfter 0x4C421234 [] 1 = some 0x12340000 := by decide
/-- V-SH5, V-SH8 for lsl, lsr, asr (the amount in r1). -/
theorem test_lsl : regAfter 0x50C04000 [(0, 0x1234ABCD), (1, 0x21)] 3 = some 0x2469579A ∧
    regAfter 0x50C04000 [(0, 0x80000001), (1, 0xFFFFFFFF)] 3 = some 0x80000000 := by decide
theorem test_lsr : regAfter 0x58804000 [(0, 0x1234ABCD), (1, 0x20)] 2 = some 0x1234ABCD ∧
    regAfter 0x58804000 [(0, 0x80000001), (1, 0xFFFFFFFF)] 2 = some 1 := by decide
theorem test_asr : regAfter 0x61004000 [(0, 0x80000001), (1, 1)] 4 = some 0xC0000000 ∧
    regAfter 0x6500001F [(0, 0xABCD1234)] 4 = some 0xFFFFFFFF := by decide
/-- V-CMP1, V-CMP4 to V-CMP7. -/
theorem test_cmp : flagsAfter 5 5 = some ⟨true, false⟩ ∧ flagsAfter 0xFFFFFFFF 0 = some ⟨false, false⟩ ∧
    flagsAfter 0 0xFFFFFFFF = some ⟨false, true⟩ ∧ flagsAfter 0x80000000 0x7FFFFFFF = some ⟨false, false⟩ ∧
    flagsAfter 0x7FFFFFFF 0x80000000 = some ⟨false, true⟩ := by decide
/-- R101's check values. -/
theorem test_znv : (subZero 0x80000000 0x7FFFFFFF, subNegative 0x80000000 0x7FFFFFFF, subOverflow 0x80000000 0x7FFFFFFF) =
    (false, false, true) ∧ (subNegative 0x7FFFFFFF 0x80000000, subOverflow 0x7FFFFFFF 0x80000000) = (true, true) := by
  decide

/-- The pc after `exec` with the given flags, from `pc`. -/
def pcOf (i : Instr) (pc : Word) (e gt : Bool) (ra : Word := 0) : Option Word :=
  match exec i { (State.reset.writeReg 15 ra) with pc := pc, flags := ⟨e, gt⟩ } with
  | .next t => some t.pc
  | .fault _ => none
  | .refused _ => none

/-- V-BR1, V-BR2, V-BR8. -/
theorem test_beq : pcOf (.beq 0x14) 0x10 true false = some 0x28 ∧ pcOf (.beq 0x14) 0x10 false true = some 0x14 := by
  decide
/-- V-BR6, V-BR7. -/
theorem test_bgt : pcOf (.bgt 0xFFFFFFF0) 0x14 false true = some 0x08 ∧
    pcOf (.bgt 0xFFFFFFF0) 0x14 true false = some 0x18 := by decide
/-- V-BR4, V-BR13. -/
theorem test_b : pcAfter 0 0x97FFFFFF [] = some (0, .running) ∧
    pcAfter 0 0x94000000 [] = some (0xF0000004, .running) := by decide
/-- V-BR9. -/
theorem test_call : pcAfter 0x10 0x98000002 [] = some (0x1C, .running) ∧
    (next? (start 0x10 0x98000002 [(15, 9)])).map (·.readReg 15) = some 0x14 := by decide
/-- V-BR10, V-BR11. -/
theorem test_ret : pcAfter 0x3C 0xA0000000 [(15, 0x14)] = some (0x14, .running) ∧
    pcAfter 4 0xA0000000 [(15, 6)] = some (6, .running) := by decide
/-- V-BR11, second cycle. -/
theorem test_fetch_unaligned :
    (next? { State.reset with pc := 6 }).map (fun t => (t.pc, t.status, t.cycles)) =
      some (6, .faulted (.memUnaligned .fetch 6), 1) := by decide
/-- P6d's decode fault: pc stays, the cycle is counted. -/
theorem test_unknown_opcode : pcAfter 4 0xA8000000 [] =
    some (4, .faulted (.decodeUnknownOpcode 0xA8000000)) := by decide
/-- V-LS1, V-LS3. -/
theorem test_ld : (next? (startWith 0x75040008 [(1, 0x100)] 0x108 0x7FFFFFFF)).map (·.readReg 4) = some 0x7FFFFFFF ∧
    (next? (startWith 0x74440000 [(1, 0x100)] 0x100 7)).map (·.readReg 1) = some 7 := by decide
/-- V-LS5 and V-LS6: the last word is in range, the next is not. -/
theorem test_ld_bounds : pcAfter 0 0x74840000 [(1, 0xFFC)] = some (4, .running) ∧
    pcAfter 0 0x74840000 [(1, 0x1000)] = some (0, .faulted (.memOutOfBounds .load 0x1000)) := by decide
/-- V-LS4; the bytes by R31. -/
theorem test_st : (next? (start 0 0x7CD40000 [(5, 0x200), (3, 0x80000068)])).map
      (fun t => (t.mem.readWord 0x200, t.mem.read 0x200, t.mem.read 0x203)) = some (0x80000068, 0x68, 0x80) := by decide
/-- V-LS8, V-LS9. -/
theorem test_st_faults : pcAfter 0 0x7C840000 [(1, 0xFFFFFFFE)] = some (0, .faulted (.memUnaligned .store 0xFFFFFFFE)) ∧
    pcAfter 0 0x7C780000 [(14, 0xFFFFFFFC)] = some (0, .faulted (.memOutOfBounds .store 0xFFFFFFFC)) := by decide
/-- R120's example. -/
theorem test_nop : pcAfter 0x40 0x68000000 [] = some (0x44, .running) := by decide
/-- V-HLT1. -/
theorem test_hlt : pcAfter 0 0xFFFFFFFF [] = some (0, .halted) ∧
    (next? (start 0 0xFFFFFFFF [])).map (·.cycles) = some 1 := by decide
/-- V-RST2's last cycle: running off the end of a 16-byte memory. -/
theorem test_end_of_memory :
    (next? { State.resetSized 16 with pc := 0x10 }).map (·.status) = some (.faulted (.memOutOfBounds .fetch 0x10)) := by
  decide
/-- V-CYC3: a bound of 0 takes no step. -/
theorem test_run_bound_zero : (run 0 State.reset).reason = .cycleLimitExceeded ∧ (run 0 State.reset).cycles = 0 := by decide
/-- R191: an image of five words does not fit 16 bytes, one of four does. -/
theorem test_load_program : loadProgram 16 [1, 2, 3, 4, 5] = none ∧
    (loadProgram 16 [1, 2, 3, 0x80000068]).map (·.mem.readWord 12) = some 0x80000068 := by decide
/-- The six units on R110's example agree with the step. -/
theorem test_datapath : next? (start 0x3C 0xA0000000 [(15, 0x14)]) = some (clock false (start 0x3C 0xA0000000 [(15, 0x14)])) := by
  decide

/-! ### Witnesses: states and operands that meet the hypotheses of a statement, all together -/

theorem witness_DecodeEncodeRoundTrip : (Instr.beq 0x0FFFFFFC).wf = true ∧ (Instr.call 0xF0000000).wf = true := by decide

theorem witness_EncodeReturnsExactlyTheCanonicalWords :
    (decode 0x0048C000 = .instr (.addR 1 2 3) ∧ canonical 0x0048C000 = true) ∧
    (decode 0x0048FFFF = .instr (.addR 1 2 3) ∧ canonical 0x0048FFFF = false) := by decide

theorem witness_UnknownOpcodesAreExactly21To30 :
    decode 0xA8000000 = .unknownOpcode 0xA8000000 ∧ decode 0xF7FFFFFF = .unknownOpcode 0xF7FFFFFF ∧
    decode 0xA7FFFFFF = .instr .ret ∧ decode 0xF8000000 = .instr .hlt ∧
    State.reset.status = .running ∧ State.reset.fetchable = true ∧
    State.reset.mem.readWord State.reset.pc.toNat = 0 := by decide

theorem witness_ReservedPatternsAreExactlyTwo :
    decode 0x64030000 = .reserved 0x64030000 ∧ decode 0x7C030000 = .reserved 0x7C030000 ∧
    decode 0x70000000 = .reserved 0x70000000 ∧ decode 0x7BFFFFFF = .reserved 0x7BFFFFFF := by decide

theorem witness_IgnoredBitsDoNotMatter :
    (decode 0x60000000 = .instr (.asrR 0 0 0) ∧ (fieldOpcode 0x60000000).toNat ≤ 12 ∧ fieldI 0x60000000 = false ∧
      (0x00003FFF : Word) &&& 0xFFFFC000 = 0) ∧
    (decode 0x2C080001 = .instr (.cmpI 2 1) ∧ (fieldOpcode 0x2C080001).toNat = 5 ∧ (0x03C00000 : Word) &&& 0xFC3FFFFF = 0) ∧
    (decode 0x4C40000A = .instr (.movI 1 10) ∧ (fieldOpcode 0x4C40000A).toNat = 9 ∧ (0x003C0000 : Word) &&& 0xFFC3FFFF = 0) ∧
    (decode 0xF8000000 = .instr .hlt ∧ (fieldOpcode 0xF8000000).toNat = 31 ∧ (0x07FFFFFF : Word) &&& 0xF8000000 = 0) ∧
    (Instr.ret).wf = true := by decide

theorem witness_BranchOffsetsCountWords :
    ((0x24 : Word).toNat % 4 = 0 ∧ (0x0C : Word).toNat % 4 = 0 ∧ -268435456 ≤ ((0x0C : Word) - (0x24 + 4)).toInt ∧
      ((0x0C : Word) - (0x24 + 4)).toInt ≤ 268435452) ∧
    -268435456 = ((0xF0000004 : Word) - (0 + 4)).toInt ∧ ((0x10000000 : Word) - (0 + 4)).toInt = 268435452 := by decide

theorem witness_StepRunsTheDecodedInstruction :
    (start 0xFFC 0x4C40000A []).status = .running ∧ (start 0xFFC 0x4C40000A []).pc.toNat % 4 = 0 ∧
    (start 0xFFC 0x4C40000A []).pc.toNat + 4 ≤ (start 0xFFC 0x4C40000A []).memSize ∧
    decode ((start 0xFFC 0x4C40000A []).mem.readWord 0xFFC) = .instr (.movI 1 10) := by decide

/-- Each clause: an odd pc, the first pc out of range, and the two decode faults at the last pc in range. -/
theorem witness_FetchAndDecodeFaultsAreTaken :
    (State.reset.status = .running ∧ ({ State.reset with pc := 1 } : State).pc.toNat % 4 ≠ 0) ∧
    (({ State.reset with pc := 0x1000 } : State).pc.toNat % 4 = 0 ∧ State.reset.memSize < (0x1000 : Word).toNat + 4) ∧
    (decode ((start 0xFFC 0xA8000000 []).mem.readWord 0xFFC) = .unknownOpcode 0xA8000000 ∧
      (start 0xFFC 0xA8000000 []).fetchable = true) ∧
    (decode ((start 0xFFC 0x71040000 []).mem.readWord 0xFFC) = .reserved 0x71040000 ∧
      (start 0xFFC 0x71040000 []).fetchable = true) := by decide

theorem witness_FaultsArePrecise : ∃ s t c, step s = .next t ∧ t.status = .faulted c :=
  ⟨start 0 0x74840000 [(1, 2)], _, _, rfl, rfl⟩

/-- Each branch of the priority, at the edges of its range. -/
theorem witness_FaultPriorityFollowsThePhases :
    pcAfter 0xFFC 0x74840000 [(1, 0x1001)] = some (0xFFC, .faulted (.memUnaligned .load 0x1001)) ∧
    pcAfter 0xFFC 0x74840000 [(1, 0x1000)] = some (0xFFC, .faulted (.memOutOfBounds .load 0x1000)) ∧
    pcAfter 0xFFC 0x74840000 [(1, 0xFFC)] = some (0x1000, .running) ∧
    pcAfter 0xFFC 0x68000000 [] = some (0x1000, .running) ∧
    pcAfter 0xFFC 0x71040000 [] = some (0xFFC, .faulted (.decodeReserved 0x71040000)) ∧
    pcAfter 0xFFC 0xA8000000 [] = some (0xFFC, .faulted (.decodeUnknownOpcode 0xA8000000)) ∧
    (next? { State.reset with pc := 0x1000 }).map (·.status) = some (.faulted (.memOutOfBounds .fetch 0x1000)) ∧
    (next? { State.reset with pc := 0x1001 }).map (·.status) = some (.faulted (.memUnaligned .fetch 0x1001)) := by decide

theorem witness_TerminalStatesHold :
    State.reset.halt.status ≠ .running ∧ (State.reset.takeFault (.decodeReserved 0x71040000)).status ≠ .running := by decide

theorem witness_EveryRunningCycleCompletes : (start 0 0x18C48000 []).status = .running := by decide

theorem witness_DatapathAgreesWithStep : (start 0x10 0x98000002 [(15, 9)]).status = .running := by decide

theorem witness_StepKeepsTheMachineInvariant :
    (start 0 0x7C840000 [(1, 0x200), (2, 5)]).Inv ∧ ∃ t, step (start 0 0x7C840000 [(1, 0x200), (2, 5)]) = .next t :=
  ⟨⟨by decide, by decide, by decide, by decide, fun _ h => by cases h⟩, _, rfl⟩

theorem witness_ResetMeetsTheMachineInvariant : Config.LegalMemSize 4 ∧ Config.LegalMemSize (2 ^ 32) := by decide

theorem witness_ResetPutsEveryElementAtItsValue :
    State.reset.halt.memSize = (start 0 0 [(1, 5)]).memSize ∧ State.reset.halt.status ≠ .running := by decide

theorem witness_CyclesCountEveryCycle :
    (State.reset.status = .running ∧ State.reset.halt.status ≠ .running) ∧ ∃ t, exec .nop State.reset = .next t :=
  ⟨by decide, _, rfl⟩

theorem witness_OnlyCompareWritesFlags :
    (∃ t, step (start 0 0x2808C000 []) = .next t ∧ t.flags ≠ (start 0 0x2808C000 []).flags) ∧
    (∀ boff, Instr.bgt 8 ≠ .beq boff) ∧ (∀ boff, Instr.beq 8 ≠ .bgt boff) ∧
    ∃ t u, exec (.bgt 8) State.reset = .next t ∧ exec (.beq 8) State.reset = .next u :=
  ⟨⟨_, rfl, by decide⟩, by simp, by simp, _, _, rfl, rfl⟩

theorem witness_OnlyStoresWriteMemory :
    ∃ t, step (start 0 0x7C840000 [(1, 0x200), (2, 5)]) = .next t ∧
      t.mem.read 0x200 ≠ (start 0 0x7C840000 [(1, 0x200), (2, 5)]).mem.read 0x200 :=
  ⟨_, rfl, by decide⟩

theorem witness_InstructionsWriteOnlyTheirDestination :
    (∃ t, exec (.call 8) State.reset = .next t) ∧ (Instr.call 8).dest ≠ some 14 := ⟨⟨_, rfl⟩, by decide⟩

theorem witness_UnreadRegistersDoNotMatter :
    (1 : Reg) ∉ (Instr.addR 1 2 3).sources ∧ ∃ t, exec (.addR 1 2 3) State.reset = .next t := ⟨by decide, _, rfl⟩

theorem witness_PcStaysAlignedUnlessRet :
    (start 0x10 0x98000002 []).pc.toNat % 4 = 0 ∧ (∃ t, step (start 0x10 0x98000002 []) = .next t) ∧
    (start 0x10 0x98000002 []).fetchDecode ≠ .ok .ret :=
  ⟨by decide, ⟨_, rfl⟩, fun h => by cases h⟩

theorem witness_PcAdvancesByRule :
    (∃ t, step (start 0x10 0x98000002 []) = .next t ∧ ∀ c, t.status ≠ .faulted c) ∧
    ∃ t c, step (start 0 0x74840000 [(1, 2)]) = .next t ∧ t.status = .faulted c :=
  ⟨⟨_, rfl, fun _ h => by cases h⟩, _, _, rfl, rfl⟩

/-- The store at 0x200; a load from there; loads from the last word of memory and from the first, one form each. -/
theorem witness_LoadAfterStoreReturnsTheWord :
    State.reset.mem.wf ∧ dataAccess (.st 3 0 0x200) State.reset = some (.store, 0x200) ∧
    (0x200 : Word).toNat % 4 = 0 ∧ (0x200 : Word).toNat + 4 ≤ State.reset.memSize ∧
    ∃ t, exec (.st 3 0 0x200) State.reset = .next t ∧ dataAccess (.ld 4 0 0x200) t = some (.load, 0x200) ∧
      dataAccess (.ldu 4 0 0xFFC) t = some (.load, 0xFFC) ∧ (0xFFC : Word).toNat + 4 ≤ State.reset.memSize ∧
      dataAccess (.ldh 4 0 0) t = some (.load, 0) :=
  ⟨by decide, rfl, by decide, by decide, _, rfl, rfl, rfl, by decide, rfl⟩

/-- P5's store, moved next to the instruction it writes: `st r1, 4[r0]` at 0, x[1] = the `hlt` word. -/
theorem witness_StoreIsFetchedByTheNextCycle :
    let s := start 0 0x7C400004 [(1, 0xF8000000)]
    s.status = .running ∧ s.mem.wf ∧ s.fetchDecode = .ok (.st 1 0 4) ∧
      dataAccess (.st 1 0 4) s = some (.store, s.pc + 4) ∧ (s.pc + 4).toNat + 4 ≤ s.memSize ∧
      decode (s.readReg 1) = .instr .hlt :=
  ⟨by decide, by decide, rfl, rfl, by decide, by decide⟩

theorem witness_ProgramLoadPlacesTheImage :
    (16 < 4 * [(1 : Word), 2, 3, 4, 5].length ∧ 4 * [(1 : Word), 2, 3, 4].length ≤ 16) ∧ Config.LegalMemSize 16 := by decide

theorem witness_RunRespectsTheCycleBound :
    State.reset.cycles ≤ 0 ∧ (run 0 State.reset).reason = .cycleLimitExceeded ∧ State.reset.status = .running ∧
    State.reset.cycles < 1 ∧
    (run 1 { State.reset with pc := 1 }).reason = .faulted (.memUnaligned .fetch 1) := by decide

theorem witness_RunIsTheHostLoop : State.reset.halt.cycles ≤ 0 ∧ (run 0 State.reset.halt).reason ≠ .cycleLimitExceeded := by
  decide

/-- Sign clauses at 7 and -7, divisor 2. -/
theorem witness_ModWritesTheRemainder : (2 : Word) ≠ 0 ∧ 0 ≤ (7 : Word).toInt ∧ (0xFFFFFFF9 : Word).toInt ≤ 0 := by decide

theorem witness_BgtBranchesOnGreater :
    (∃ t, exec (.cmpR 1 2) State.reset = .next t) ∧ (∃ t, exec (.cmpI 1 5) State.reset = .next t) ∧
    (∃ t, exec (.cmpu 1 5) State.reset = .next t) ∧ ∃ t, exec (.cmph 1 5) State.reset = .next t :=
  ⟨⟨_, rfl⟩, ⟨_, rfl⟩, ⟨_, rfl⟩, _, rfl⟩

/-- A link register of 6 (unaligned) and of 0x1000 (the first aligned address out of range). -/
theorem witness_RetJumpsToTheLinkRegister :
    (∃ t, exec .ret (start 4 0xA0000000 [(15, 6)]) = .next t ∧ t.pc.toNat % 4 ≠ 0) ∧
    (∃ t, exec .ret (start 4 0xA0000000 [(15, 0x1000)]) = .next t ∧ t.pc.toNat % 4 = 0 ∧ t.memSize < t.pc.toNat + 4) ∧
    (start 4 0xA0000000 [(15, 6)]).status = .running :=
  ⟨⟨_, rfl, by decide⟩, ⟨_, rfl, by decide, by decide⟩, by decide⟩

/-- The three clauses of a load: the last word in range, the first one out of range, and an odd address beyond both. -/
theorem witness_LoadsReadTheAddressedWord :
    ((0xFFC : Word).toNat % 4 = 0 ∧ (0xFFC : Word).toNat + 4 ≤ State.reset.memSize) ∧
    ((0x1000 : Word).toNat % 4 = 0 ∧ State.reset.memSize < (0x1000 : Word).toNat + 4) ∧
    (0x1001 : Word).toNat % 4 ≠ 0 ∧
    (fieldOpcode 0x71040000 = 14 ∧ fieldI 0x71040000 = false) ∧ (fieldOpcode 0x7C030000 = 15 ∧ fieldModifier 0x7C030000 = 3) := by
  decide

/-- The same edges for a store, over memory in canonical form. -/
theorem witness_StoresWriteTheAddressedWord :
    (start 0 0x7C840000 [(1, 0x200)]).mem.wf ∧
    ((0xFFC : Word).toNat % 4 = 0 ∧ (0xFFC : Word).toNat + 4 ≤ State.reset.memSize) ∧
    ((0x1000 : Word).toNat % 4 = 0 ∧ State.reset.memSize < (0x1000 : Word).toNat + 4) ∧ (0x1001 : Word).toNat % 4 ≠ 0 ∧
    (fieldOpcode 0x79040000 = 15 ∧ fieldI 0x79040000 = false) ∧ ∃ t, State.reset.memWrite 0xFFC 5 = .ok t :=
  ⟨by decide, by decide, by decide, by decide, by decide, _, rfl⟩

theorem witness_NopOnlyAdvances :
    0x68000000 ≤ (0x68000000 : Word).toNat ∧ (0x6FFFFFFF : Word).toNat ≤ 0x6FFFFFFF ∧
    (start 0 0x6FFFFFFF []).status = .running ∧ (start 0 0x6FFFFFFF []).fetchDecode = .ok .nop :=
  ⟨by decide, by decide, by decide, rfl⟩

theorem witness_HaltStopsTheCore :
    0xF8000000 ≤ (0xF8000000 : Word).toNat ∧ (start 0 0xFFFFFFFF []).status = .running ∧
    (start 0 0xFFFFFFFF []).fetchDecode = .ok .hlt :=
  ⟨by decide, by decide, rfl⟩

end Sys2Proof.Tests
end

section
/-! PROOFS. What a cycle does to the count, the flags and the pc (spec/10_state.md R15, R17, R19): facts about `exec`
and `step` first, then the statements O19, O20 and O25. -/

namespace Sys2Proof.Machine

/-! ### Loads and stores, by the answer of the access check (R116, R117) -/

theorem loadWord_of_allowed {rd : Reg} {ea : Word} {s : State} (ha : checkAccess .load ea s.memSize = none) :
    loadWord rd ea s = .next (s.writeReg rd (s.mem.readWord ea.toNat)).advance := by
  simp [loadWord, State.memRead, writeAndAdvance, ha]

theorem loadWord_of_fault {rd : Reg} {ea : Word} {s : State} {c : FaultCause}
    (ha : checkAccess .load ea s.memSize = some c) : loadWord rd ea s = .next (s.takeFault c) := by
  simp [loadWord, State.memRead, ha]

theorem storeWord_of_allowed {ea v : Word} {s : State} (ha : checkAccess .store ea s.memSize = none) :
    storeWord ea v s = .next (State.advance { s with mem := s.mem.writeWord ea.toNat v }) := by
  simp [storeWord, State.memWrite, ha]

theorem storeWord_of_fault {ea v : Word} {s : State} {c : FaultCause}
    (ha : checkAccess .store ea s.memSize = some c) : storeWord ea v s = .next (s.takeFault c) := by
  simp [storeWord, State.memWrite, ha]

/-! ### Existence of a step, and the counted cycle (R19, R140) -/

/-- Executing an instruction leaves the count: only `State.countCycle` changes it. -/
theorem exec_cycles {i : Instr} {s t : State} (h : exec i s = .next t) : t.cycles = s.cycles := by
  cases exec_next_effect h <;> rfl

theorem exists_step_of_running {s : State} (h : s.status = .running) : ∃ t, step s = .next t := by
  rw [step_of_running h]
  cases s.fetchDecode with
  | ok i =>
    obtain ⟨t, ht, -⟩ := exec_effect i s.countCycle
    exact ⟨t, ht⟩
  | error c => exact ⟨_, rfl⟩

theorem not_step_next_of_not_running {s : State} (h : s.status ≠ .running) (t : State) : step s ≠ .next t :=
  fun ht => h (step_next_cases ht).1

theorem step_cycles {s t : State} (h : step s = .next t) : t.cycles = s.cycles + 1 := by
  obtain ⟨-, ⟨i, -, hx⟩ | ⟨c, -, rfl⟩⟩ := step_next_cases h
  · exact exec_cycles hx
  · rfl

theorem clock_false_cycles_of_not_running {s : State} (h : s.status ≠ .running) : (clock false s).cycles = s.cycles :=
  if_neg h

/-! ### Flags (R17) -/

theorem exec_flags_of_not_compare {i : Instr} {s t : State} (h : exec i s = .next t) (hi : i.instrClass ≠ .compare) :
    t.flags = s.flags := by
  cases exec_next_effect h with
  | compared a b hd hc => exact absurd hc hi
  | _ => rfl

/-! ### Flags and count are read by the two conditional branches only -/

/-- `s` with other flags and another cycle count: the elements that no instruction but `beq` and `bgt` reads. -/
def State.withFlagsAndCount (s : State) (f : Flags) (n : Nat) : State := { s with flags := f, cycles := n }

/-- The flags an instruction leaves when it starts with the flags `f` and would latch `latched` if it is a compare. -/
def flagsAfter (i : Instr) (f latched : Flags) : Flags := if i.instrClass = .compare then latched else f

@[simp] theorem flagsAfter_of_compare {i : Instr} (hi : i.instrClass = .compare) (f latched : Flags) :
    flagsAfter i f latched = latched := if_pos hi

@[simp] theorem flagsAfter_of_not_compare {i : Instr} (hi : i.instrClass ≠ .compare) (f latched : Flags) :
    flagsAfter i f latched = f := if_neg hi

theorem loadWord_withFlagsAndCount {rd : Reg} {ea : Word} {s t : State} (f : Flags) (n : Nat)
    (h : loadWord rd ea s = .next t) :
    loadWord rd ea (s.withFlagsAndCount f n) = .next (t.withFlagsAndCount f n) := by
  cases ha : checkAccess .load ea s.memSize with
  | none =>
    rw [loadWord_of_allowed ha] at h
    cases h
    exact loadWord_of_allowed ha
  | some c =>
    rw [loadWord_of_fault ha] at h
    cases h
    exact loadWord_of_fault ha

theorem storeWord_withFlagsAndCount {ea v : Word} {s t : State} (f : Flags) (n : Nat)
    (h : storeWord ea v s = .next t) :
    storeWord ea v (s.withFlagsAndCount f n) = .next (t.withFlagsAndCount f n) := by
  cases ha : checkAccess .store ea s.memSize with
  | none =>
    rw [storeWord_of_allowed ha] at h
    cases h
    exact storeWord_of_allowed ha
  | some c =>
    rw [storeWord_of_fault ha] at h
    cases h
    exact storeWord_of_fault ha

theorem branchIf_withFlagsAndCount {cond : Bool} {boff : Word} {s t : State} (f : Flags) (n : Nat)
    (h : branchIf cond boff s = .next t) :
    branchIf cond boff (s.withFlagsAndCount f n) = .next (t.withFlagsAndCount f n) := by
  rw [branchIf_eq] at h ⊢
  cases h
  rfl

/-- Other flags and another count on entry change only the flags and the count on exit: `beq` must still see its E and
`bgt` its GT (R17, R19), and a compare latches the same flags from the same operands (R100). -/
theorem exec_withFlagsAndCount {i : Instr} {s t : State} {f : Flags} {n : Nat} (h : exec i s = .next t)
    (he : ∀ boff, i = .beq boff → f.e = s.flags.e) (hg : ∀ boff, i = .bgt boff → f.gt = s.flags.gt) :
    exec i (s.withFlagsAndCount f n) = .next (t.withFlagsAndCount (flagsAfter i f t.flags) n) := by
  cases i with
  | ld | ldu | ldh => exact loadWord_withFlagsAndCount f n h
  | st | stu | sth => exact storeWord_withFlagsAndCount f n h
  | beq boff =>
    have hx : exec (.beq boff) (s.withFlagsAndCount f n) = branchIf f.e boff (s.withFlagsAndCount f n) := rfl
    rw [hx, he boff rfl]
    exact branchIf_withFlagsAndCount f n h
  | bgt boff =>
    have hx : exec (.bgt boff) (s.withFlagsAndCount f n) = branchIf f.gt boff (s.withFlagsAndCount f n) := rfl
    rw [hx, hg boff rfl]
    exact branchIf_withFlagsAndCount f n h
  | _ =>
    -- Every other instruction ends in one update whose operands are registers, the pc and immediates.
    cases h
    rfl

/-! ### The pc (R15) -/

/-- Where an instruction that completes from `s` leaves the pc (R15, R105 to R110, R121). -/
def completionPc (i : Instr) (s : State) : Word :=
  match i with
  | .hlt => s.pc
  | .ret => s.readReg Config.linkReg
  | .b boff => branchTarget s boff
  | .call boff => branchTarget s boff
  | .beq boff => if s.flags.e then branchTarget s boff else s.pcPlus4
  | .bgt boff => if s.flags.gt then branchTarget s boff else s.pcPlus4
  | _ => s.pcPlus4

/-- An instruction takes a fault, or it completes and leaves the pc where it must. -/
theorem exec_takesFault_or_pc {i : Instr} {s t : State} (h : exec i s = .next t) :
    (∃ c, t = s.takeFault c) ∨ t.pc = completionPc i s := by
  cases i with
  | ld rd rs1 imm | ldu rd rs1 imm | ldh rd rs1 imm =>
    obtain ⟨-, hx⟩ | ⟨c, -, hx⟩ := loadWord_cases rd _ s
    · cases hx.symm.trans h
      exact .inr rfl
    · cases hx.symm.trans h
      exact .inl ⟨c, rfl⟩
  | st rd rs1 imm | stu rd rs1 imm | sth rd rs1 imm =>
    obtain ⟨-, hx⟩ | ⟨c, -, hx⟩ := storeWord_cases _ (s.readReg rd) s
    · cases hx.symm.trans h
      exact .inr rfl
    · cases hx.symm.trans h
      exact .inl ⟨c, rfl⟩
  | beq boff =>
    cases (branchIf_eq s.flags.e boff s).symm.trans h
    exact .inr rfl
  | bgt boff =>
    cases (branchIf_eq s.flags.gt boff s).symm.trans h
    exact .inr rfl
  | _ =>
    cases h
    exact .inr rfl

/-- A running core is Faulted after an instruction only if the instruction took the fault, the pc unchanged (R165). -/
theorem exec_pc_of_faulted {i : Instr} {s t : State} {c : FaultCause} (h : exec i s = .next t)
    (hs : s.status = .running) (ht : t.status = .faulted c) : t.pc = s.pc := by
  cases exec_next_effect h with
  | loadFault | storeFault => rfl
  | halted => cases ht
  | _ => cases hs.symm.trans ht

end Sys2Proof.Machine

/-! ### The obligations -/

open Sys2Proof Sys2Proof.Machine

/-- Settles O19: the first three clauses are about the count alone; the last is non-interference at the old flags, which
a non-compare keeps. -/
theorem cyclesCountEveryCycle : Obligations.CyclesCountEveryCycle := by
  refine ⟨fun n => rfl, fun s hs => ?_, fun s hs => ?_, fun i s t n h => ?_⟩
  · obtain ⟨t, ht⟩ := exists_step_of_running hs
    exact ⟨t, ht, step_cycles ht⟩
  · exact ⟨not_step_next_of_not_running hs, clock_false_cycles_of_not_running hs⟩
  · have hflags : flagsAfter i s.flags t.flags = t.flags := by
      by_cases hi : i.instrClass = .compare
      · exact flagsAfter_of_compare hi _ _
      · rw [flagsAfter_of_not_compare hi, exec_flags_of_not_compare h hi]
    have hx := exec_withFlagsAndCount (n := n) h (fun _ _ => rfl) (fun _ _ => rfl)
    rw [hflags] at hx
    exact hx

/-- Settles O20: a step keeps the flags unless it executes a compare, and each flag is read by its own branch only. -/
theorem onlyCompareWritesFlags : Obligations.OnlyCompareWritesFlags := by
  refine ⟨fun s t h hne => ?_, fun i s t e hi h => ?_, fun i s t g hi h => ?_, fun n => rfl⟩
  · obtain ⟨-, ⟨i, hf, hx⟩ | ⟨c, -, rfl⟩⟩ := step_next_cases h
    · exact ⟨i, hf, by_contra fun hi => hne ((exec_flags_of_not_compare hx hi).trans s.countCycle_flags)⟩
    · exact absurd rfl hne
  · exact ⟨_, exec_withFlagsAndCount (f := { s.flags with e := e }) (n := s.cycles) h
      (fun boff hb => absurd hb (hi boff)) (fun _ _ => rfl), fun _ => rfl, fun _ => rfl, rfl, rfl⟩
  · exact ⟨_, exec_withFlagsAndCount (f := { s.flags with gt := g }) (n := s.cycles) h
      (fun _ _ => rfl) (fun boff hb => absurd hb (hi boff)), fun _ => rfl, fun _ => rfl, rfl, rfl⟩

/-- Settles O25: a faulting phase leaves the pc (R165), and an instruction that completes follows `completionPc`. -/
theorem pcAdvancesByRule : Obligations.PcAdvancesByRule := by
  intro s t h
  obtain ⟨hs, ⟨i, hf, hx⟩ | ⟨c, -, rfl⟩⟩ := step_next_cases h
  · refine ⟨fun ⟨c, hc⟩ => (exec_pc_of_faulted hx hs hc).trans s.countCycle_pc, fun hok => ⟨i, hf, ?_⟩⟩
    obtain ⟨c, rfl⟩ | hpc := exec_takesFault_or_pc hx
    · exact absurd rfl (hok c)
    · -- `completionPc` is the statement's table, with its `_` row read off at each instruction.
      cases i <;> exact hpc
  · exact ⟨fun _ => rfl, fun hok => absurd rfl (hok c)⟩

end

section
/-! PROOFS. What decoding can answer and how it fits the encoder (spec/30_encoding.md R59, R61 to R64): facts about fields,
masks and branch offsets, the classification `DecodeAnswer` of everything `decode` answers, then the statements O3, O4,
O5 and O8. -/

namespace Sys2Proof

/-! ### The branch offset (R59) -/

/-- The byte offset of a field is its signed word count times 4: the shift loses no bit. -/
theorem toInt_boffOf (off : Off27) : (boffOf off).toInt = 4 * off.toInt := by
  have hlo := BitVec.le_toInt off
  have hhi := BitVec.toInt_lt (x := off)
  have hfour : (BitVec.twoPow 32 2).toInt = 4 := by decide
  rw [boffOf, BitVec.shiftLeft_eq_mul_twoPow, BitVec.toInt_mul, BitVec.toInt_signExtend_of_le (by decide), hfour,
    Int.bmod_eq_of_le (by omega) (by omega), Int.mul_comm]

theorem boffOf_mod_four (off : Off27) : (boffOf off).toNat % 4 = 0 := by
  have h := toInt_boffOf off
  rw [BitVec.toInt_eq_toNat_cond] at h
  split at h <;> omega

theorem boffWf_iff (boff : Word) :
    boffWf boff = true ↔ boff.toNat % 4 = 0 ∧ -268435456 ≤ boff.toInt ∧ boff.toInt ≤ 268435452 := by
  simp [boffWf, boffAligned, boffInRange]

theorem boffWf_boffOf (off : Off27) : boffWf (boffOf off) = true := by
  have hlo := BitVec.le_toInt off
  have hhi := BitVec.toInt_lt (x := off)
  rw [boffWf_iff, toInt_boffOf]
  exact ⟨boffOf_mod_four off, by omega, by omega⟩

/-- The assembler formula: a byte offset that is an offset of the machine comes back from its word count. -/
theorem boffOf_ofInt_div_four {boff : Word} (h : boffWf boff = true) : boffOf (BitVec.ofInt 27 (boff.toInt / 4)) = boff := by
  obtain ⟨halign, hlo, hhi⟩ := (boffWf_iff boff).mp h
  have hdiv : 4 * (boff.toInt / 4) = boff.toInt := by
    rw [BitVec.toInt_eq_toNat_cond]
    split <;> omega
  apply BitVec.eq_of_toInt_eq
  rw [toInt_boffOf, BitVec.toInt_ofInt_eq_self (by decide) (by omega) (by omega), hdiv]

/-- The field at bits 28:2 of a byte offset is its signed word count. -/
theorem off27Of_eq_ofInt (boff : Word) : off27Of boff = BitVec.ofInt 27 (boff.toInt / 4) := by
  apply BitVec.eq_of_toNat_eq
  rw [off27Of, BitVec.extractLsb'_toNat, BitVec.toNat_ofInt, Nat.shiftRight_eq_div_pow, BitVec.toInt_eq_toNat_cond]
  split <;> omega

theorem boffOf_off27Of {boff : Word} (h : boffWf boff = true) : boffOf (off27Of boff) = boff := by
  rw [off27Of_eq_ofInt, boffOf_ofInt_div_four h]

@[simp] theorem off27Of_boffOf (off : Off27) : off27Of (boffOf off) = off := by
  rw [off27Of_eq_ofInt, toInt_boffOf, Int.mul_ediv_cancel_left _ (by decide), BitVec.ofInt_toInt]

theorem encodeB_boffOf (op : BitVec 5) (off : Off27) : encodeB op (boffOf off) = op ++ off := by
  rw [encodeB, off27Of_boffOf]

/-! ### The round trip from instructions (R66) -/

/-- The encoding of a well-formed instruction decodes to it, format by format. -/
theorem decode_encode {i : Instr} (h : i.wf = true) : decode (encode i) = .instr i := by
  cases i with
  | addR | subR | mulR | divR | modR | cmpR | andR | orR | notR | movR | lslR | lsrR | asrR =>
    simp [encode, decode, decodeAlu]
  | addI | addu | addh | subI | subu | subh | mulI | mulu | mulh | divI | divu | divh | modI | modu | modh
  | cmpI | cmpu | cmph | andI | andu | andh | orI | oru | orh | notI | notu | noth | movI | movu | movh
  | lslI | lslu | lslh | lsrI | lsru | lsrh | asrI | asru | asrh =>
    simp [encode, decode, decodeAlu, decodeImm]
  | ld | ldu | ldh | st | stu | sth => simp [encode, decode, decodeImmOnly, decodeImm]
  | beq boff | bgt boff | b boff | call boff => simp [encode, decode, boffOf_off27Of h]
  | nop | ret | hlt => rfl

theorem encode_injective {i j : Instr} (hi : i.wf = true) (hj : j.wf = true) (h : encode i = encode j) : i = j := by
  have hd := decode_encode hi
  rw [h, decode_encode hj] at hd
  cases hd
  rfl

/-! ### Fields of masked words -/

theorem and_not_zero (w : Word) : w &&& ~~~0 = w := BitVec.and_allOnes

/-- Clearing bits outside a field leaves the field. -/
theorem extractLsb'_and_not_of_zero {start len : Nat} {m : Word} (w : Word) (hm : m.extractLsb' start len = 0) :
    (w &&& ~~~m).extractLsb' start len = w.extractLsb' start len := by
  apply BitVec.eq_of_getLsbD_eq
  intro k hk
  have hbit : m.getLsbD (start + k) = false := by
    have := congrArg (·.getLsbD k) hm
    simpa [hk] using this
  rw [BitVec.getLsbD_extractLsb', BitVec.getLsbD_extractLsb', BitVec.getLsbD_and, BitVec.getLsbD_not, hbit]
  cases hw : w.getLsbD (start + k) with
  | false => simp
  | true => simp [BitVec.lt_of_getLsbD hw]

/-- Clearing all bits of a field makes it 0. -/
theorem extractLsb'_and_not_of_allOnes {start len : Nat} {m : Word} (w : Word)
    (hm : m.extractLsb' start len = BitVec.allOnes len) : (w &&& ~~~m).extractLsb' start len = 0 := by
  apply BitVec.eq_of_getLsbD_eq
  intro k hk
  have hbit : m.getLsbD (start + k) = true := by
    have := congrArg (·.getLsbD k) hm
    simpa [hk] using this
  simp [hk, hbit]

/-- Clearing no bit, the field rd or the field rs1 leaves every field apart from those two. -/
theorem extractLsb'_and_not_registerField {start len : Nat} {e : Word} (w : Word)
    (he : e = 0 ∨ e = ignoredRd ∨ e = ignoredRs1) (hrd : ignoredRd.extractLsb' start len = 0)
    (hrs1 : ignoredRs1.extractLsb' start len = 0) : (w &&& ~~~e).extractLsb' start len = w.extractLsb' start len := by
  apply extractLsb'_and_not_of_zero
  obtain rfl | rfl | rfl := he
  · exact BitVec.extractLsb'_zero
  · exact hrd
  · exact hrs1

theorem fieldI_and_not_of_zero {m : Word} (w : Word) (hm : fieldI m = false) : fieldI (w &&& ~~~m) = fieldI w := by
  have hbit : m.getLsbD 26 = false := hm
  rw [fieldI, fieldI, BitVec.getLsbD_and, BitVec.getLsbD_not, hbit]
  simp

theorem fieldOpcode_toNat (w : Word) : (fieldOpcode w).toNat = w.toNat / 2 ^ 27 := by
  rw [fieldOpcode, BitVec.extractLsb'_toNat, Nat.shiftRight_eq_div_pow, Nat.mod_eq_of_lt]
  have := w.isLt
  omega

theorem fieldModifier_eq_three_iff (w : Word) :
    (fieldModifier w).toNat = 3 ↔ w.getLsbD 17 = true ∧ w.getLsbD 16 = true := by
  have hbits : ∀ m : BitVec 2, m.toNat = 3 ↔ m.getLsbD 1 = true ∧ m.getLsbD 0 = true := by decide
  rw [hbits, fieldModifier, BitVec.getLsbD_extractLsb', BitVec.getLsbD_extractLsb']
  simp

/-! ### Words rebuilt from their fields (R52 to R55) -/

/-- A format R word is its fields and the ignored bits 13:0. -/
theorem encodeR_fields {w : Word} (hI : fieldI w = false) :
    encodeR (fieldOpcode w) (fieldRd w) (fieldRs1 w) (fieldRs2 w) = w &&& ~~~ignoredR := by
  have hbit : w[26] = false := hI
  apply BitVec.eq_of_getLsbD_eq
  intro k hk
  simp only [encodeR, ignoredR, fieldOpcode, fieldRd, fieldRs1, fieldRs2, BitVec.getLsbD_append, BitVec.getLsbD_and,
    BitVec.getLsbD_not, BitVec.getLsbD_extractLsb']
  interval_cases k <;> simp [hbit]

/-- A format I word is its fields. -/
theorem encodeI_fields {w : Word} (hI : fieldI w = true) :
    encodeI (fieldOpcode w) (fieldRd w) (fieldRs1 w) (fieldModifier w) (fieldImm16 w) = w := by
  have hbit : w[26] = true := hI
  apply BitVec.eq_of_getLsbD_eq
  intro k hk
  simp only [encodeI, fieldOpcode, fieldRd, fieldRs1, fieldModifier, fieldImm16, BitVec.getLsbD_append,
    BitVec.getLsbD_extractLsb']
  interval_cases k <;> simp [hbit]

/-- A format B word is its fields. -/
theorem append_opcode_off27 (w : Word) : fieldOpcode w ++ fieldOff27 w = w := by
  apply BitVec.eq_of_getLsbD_eq
  intro k hk
  simp only [fieldOpcode, fieldOff27, BitVec.getLsbD_append, BitVec.getLsbD_extractLsb']
  interval_cases k <;> simp

/-- A format Z word is its opcode and the ignored bits 26:0. -/
theorem encodeZ_fields (w : Word) : encodeZ (fieldOpcode w) = w &&& ~~~ignoredZ := by
  apply BitVec.eq_of_getLsbD_eq
  intro k hk
  simp only [encodeZ, ignoredZ, fieldOpcode, BitVec.getLsbD_append, BitVec.getLsbD_and, BitVec.getLsbD_not,
    BitVec.getLsbD_extractLsb']
  interval_cases k <;> simp

/-! ### Everything decoding can answer (R64) -/

/-- The opcodes with a format I row (R60). -/
def HasImmediateRow (w : Word) : Prop :=
  (fieldOpcode w).toNat ≤ 12 ∨ (fieldOpcode w).toNat = 14 ∨ (fieldOpcode w).toNat = 15

/-- The words of R61: their opcode selects no instruction. -/
def UnknownWord (w : Word) : Prop := 21 ≤ (fieldOpcode w).toNat ∧ (fieldOpcode w).toNat ≤ 30

/-- The words of R62: format I with modifier 0b11, and `ld` or `st` with the I bit clear. -/
def ReservedWord (w : Word) : Prop :=
  (HasImmediateRow w ∧ fieldI w = true ∧ (fieldModifier w).toNat = 3) ∨
  (((fieldOpcode w).toNat = 14 ∨ (fieldOpcode w).toNat = 15) ∧ fieldI w = false)

theorem hasImmediateRow_of_reservedWord {w : Word} (h : ReservedWord w) : HasImmediateRow w := by
  obtain ⟨hrow, -⟩ | ⟨hop, -⟩ := h
  · exact hrow
  · exact .inr hop

theorem not_unknownWord_of_hasImmediateRow {w : Word} (h : HasImmediateRow w) : ¬ UnknownWord w := by
  unfold HasImmediateRow at h
  unfold UnknownWord
  omega

theorem not_unknownWord_of_reservedWord {w : Word} (h : ReservedWord w) : ¬ UnknownWord w :=
  not_unknownWord_of_hasImmediateRow (hasImmediateRow_of_reservedWord h)

/-- What `decode` can answer for `w`: an instruction exactly when R61 and R62 do not name the word, and then its canonical
encoding is `w` with the ignored bits cleared (R63). -/
inductive DecodeAnswer (w : Word) : Decoded → Prop where
  | instr (i : Instr) (hu : ¬ UnknownWord w) (hr : ¬ ReservedWord w) (hwf : i.wf = true)
      (henc : encode i = w &&& ~~~ignoredBits w) : DecodeAnswer w (.instr i)
  | unknownOpcode (hu : UnknownWord w) : DecodeAnswer w (.unknownOpcode w)
  | reserved (hr : ReservedWord w) : DecodeAnswer w (.reserved w)

/-- `i`, `u` and `h` are the format I rows of one opcode (R60), for the modifiers 00, 01, 10. -/
structure ImmediateRows (op : BitVec 5) (rd rs1 : Reg) (i u h : Imm16 → Instr) : Prop where
  signed : ∀ imm, (i imm).wf = true ∧ encode (i imm) = encodeI op rd rs1 0 imm
  unsigned : ∀ imm, (u imm).wf = true ∧ encode (u imm) = encodeI op rd rs1 1 imm
  high : ∀ imm, (h imm).wf = true ∧ encode (h imm) = encodeI op rd rs1 2 imm

/-- The rows of an opcode with formats R and I (R60): `r` is its format R row. -/
structure AluRows (op : BitVec 5) (rd rs1 : Reg) (r : Reg → Instr) (i u h : Imm16 → Instr) : Prop
    extends ImmediateRows op rd rs1 i u h where
  register : ∀ rs2, (r rs2).wf = true ∧ encode (r rs2) = encodeR op rd rs1 rs2

section Rows

variable {w : Word} {rd rs1 : Reg} {r : Reg → Instr} {i u h : Imm16 → Instr}

/-- One format I row of an opcode, chosen by the modifier `m`. -/
theorem immediateRow_answer {m : Nat} {j : Imm16 → Instr} (hop : HasImmediateRow w) (hI : fieldI w = true)
    (hm : (fieldModifier w).toNat = m) (hne : m ≠ 3)
    (row : ∀ imm, (j imm).wf = true ∧ encode (j imm) = encodeI (fieldOpcode w) rd rs1 (BitVec.ofNat 2 m) imm)
    (hw : encodeI (fieldOpcode w) rd rs1 (fieldModifier w) (fieldImm16 w) = w &&& ~~~ignoredBits w) :
    DecodeAnswer w (.instr (j (fieldImm16 w))) := by
  obtain ⟨hwf, henc⟩ := row (fieldImm16 w)
  refine .instr _ (not_unknownWord_of_hasImmediateRow hop) ?_ hwf ?_
  · rintro (⟨-, -, hthree⟩ | ⟨-, hclear⟩)
    · exact hne (hm.symm.trans hthree)
    · exact absurd (hI.symm.trans hclear) (by decide)
  · rw [henc, ← hm, BitVec.ofNat_toNat, BitVec.setWidth_eq, hw]

theorem decodeImm_answer (hop : HasImmediateRow w) (hI : fieldI w = true)
    (rows : ImmediateRows (fieldOpcode w) rd rs1 i u h)
    (hw : encodeI (fieldOpcode w) rd rs1 (fieldModifier w) (fieldImm16 w) = w &&& ~~~ignoredBits w) :
    DecodeAnswer w (decodeImm w i u h) := by
  have hlt := (fieldModifier w).isLt
  obtain hm | hm | hm | hm : (fieldModifier w).toNat = 0 ∨ (fieldModifier w).toNat = 1 ∨ (fieldModifier w).toNat = 2 ∨
      (fieldModifier w).toNat = 3 := by omega
  all_goals simp only [decodeImm, hm]
  · exact immediateRow_answer hop hI hm (by decide) rows.signed hw
  · exact immediateRow_answer hop hI hm (by decide) rows.unsigned hw
  · exact immediateRow_answer hop hI hm (by decide) rows.high hw
  · exact .reserved (.inl ⟨hop, hI, hm⟩)

theorem decodeImmOnly_answer (hop : (fieldOpcode w).toNat = 14 ∨ (fieldOpcode w).toNat = 15)
    (rows : ImmediateRows (fieldOpcode w) (fieldRd w) (fieldRs1 w) i u h) :
    DecodeAnswer w (decodeImmOnly w i u h) := by
  have hign : ignoredBits w = 0 := by
    obtain hop | hop := hop <;> simp [ignoredBits, hop]
  unfold decodeImmOnly
  split
  next hI => exact decodeImm_answer (.inr hop) hI rows (by rw [encodeI_fields hI, hign, and_not_zero])
  next hI => exact .reserved (.inr ⟨hop, by simpa using hI⟩)

/-- An opcode with formats R and I: `e` holds the bits it ignores beyond those of the format, a register field or none. -/
theorem decodeAlu_answer {e : Word} (hop : (fieldOpcode w).toNat ≤ 12)
    (hign : ignoredBits w = (if fieldI w then 0 else ignoredR) ||| e) (he : e = 0 ∨ e = ignoredRd ∨ e = ignoredRs1)
    (hrd : fieldRd (w &&& ~~~e) = rd) (hrs1 : fieldRs1 (w &&& ~~~e) = rs1)
    (rows : AluRows (fieldOpcode w) rd rs1 r i u h) : DecodeAnswer w (decodeAlu w r i u h) := by
  have hopcode : fieldOpcode (w &&& ~~~e) = fieldOpcode w := extractLsb'_and_not_registerField w he rfl rfl
  have hfieldI : fieldI (w &&& ~~~e) = fieldI w :=
    fieldI_and_not_of_zero w (by rcases he with rfl | rfl | rfl <;> rfl)
  have hrs2 : fieldRs2 (w &&& ~~~e) = fieldRs2 w := extractLsb'_and_not_registerField w he rfl rfl
  have hmod : fieldModifier (w &&& ~~~e) = fieldModifier w := extractLsb'_and_not_registerField w he rfl rfl
  have himm : fieldImm16 (w &&& ~~~e) = fieldImm16 w := extractLsb'_and_not_registerField w he rfl rfl
  unfold decodeAlu
  split
  next hI =>
    refine decodeImm_answer (.inl hop) hI rows.toImmediateRows ?_
    have hw := encodeI_fields (hfieldI.trans hI)
    rw [hopcode, hrd, hrs1, hmod, himm] at hw
    rw [hw, hign, if_pos hI]
    simp
  next hI =>
    have hI : fieldI w = false := by simpa using hI
    obtain ⟨hwf, henc⟩ := rows.register (fieldRs2 w)
    refine .instr _ (not_unknownWord_of_hasImmediateRow (.inl hop)) ?_ hwf ?_
    · rintro (⟨-, hset, -⟩ | ⟨hmem, -⟩)
      · exact absurd (hI.symm.trans hset) (by decide)
      · omega
    · have hw := encodeR_fields (hfieldI.trans hI)
      rw [hopcode, hrd, hrs1, hrs2] at hw
      rw [henc, hw, hign, hI, if_neg (by decide), BitVec.or_comm, BitVec.not_or, BitVec.and_assoc]

/-- Formats B and Z: no bit pattern of these opcodes is reserved. -/
theorem instr_answer {j : Instr} (hop : ¬ HasImmediateRow w) (hu : ¬ UnknownWord w) (hwf : j.wf = true)
    (henc : encode j = w &&& ~~~ignoredBits w) : DecodeAnswer w (.instr j) :=
  .instr j hu (fun hr => hop (hasImmediateRow_of_reservedWord hr)) hwf henc

end Rows

/-- The decoder, opcode by opcode of R60: its answer is the one `DecodeAnswer` allows. -/
theorem decode_answer (w : Word) : DecodeAnswer w (decode w) := by
  have hlt := (fieldOpcode w).isLt
  obtain ⟨n, hn⟩ : ∃ n, (fieldOpcode w).toNat = n := ⟨_, rfl⟩
  have hop : fieldOpcode w = BitVec.ofNat 5 n := by rw [← hn, BitVec.ofNat_toNat, BitVec.setWidth_eq]
  rw [hn] at hlt
  obtain halu | hcmp | hunary | hmem | hbranch | hz | ⟨hlo, hhi⟩ :
      (n = 0 ∨ n = 1 ∨ n = 2 ∨ n = 3 ∨ n = 4 ∨ n = 6 ∨ n = 7 ∨ n = 10 ∨ n = 11 ∨ n = 12) ∨ n = 5 ∨ (n = 8 ∨ n = 9) ∨
      (n = 14 ∨ n = 15) ∨ (n = 16 ∨ n = 17 ∨ n = 18 ∨ n = 19) ∨ (n = 13 ∨ n = 20 ∨ n = 31) ∨ (21 ≤ n ∧ n ≤ 30) := by
    omega
  · obtain rfl | rfl | rfl | rfl | rfl | rfl | rfl | rfl | rfl | rfl := halu
    all_goals
      simp only [decode, hn]
      refine decodeAlu_answer (e := 0) (by omega) (by simp [ignoredBits, hn]) (.inl rfl)
        (by rw [and_not_zero]) (by rw [and_not_zero]) ?_
      rw [hop]
      exact ⟨⟨fun _ => ⟨rfl, rfl⟩, fun _ => ⟨rfl, rfl⟩, fun _ => ⟨rfl, rfl⟩⟩, fun _ => ⟨rfl, rfl⟩⟩
  · obtain rfl := hcmp
    simp only [decode, hn]
    refine decodeAlu_answer (e := ignoredRd) (by omega) (by simp [ignoredBits, hn]) (.inr (.inl rfl))
      (extractLsb'_and_not_of_allOnes w rfl) (extractLsb'_and_not_of_zero w rfl) ?_
    rw [hop]
    exact ⟨⟨fun _ => ⟨rfl, rfl⟩, fun _ => ⟨rfl, rfl⟩, fun _ => ⟨rfl, rfl⟩⟩, fun _ => ⟨rfl, rfl⟩⟩
  · obtain rfl | rfl := hunary
    all_goals
      simp only [decode, hn]
      refine decodeAlu_answer (e := ignoredRs1) (by omega) (by simp [ignoredBits, hn]) (.inr (.inr rfl))
        (extractLsb'_and_not_of_zero w rfl) (extractLsb'_and_not_of_allOnes w rfl) ?_
      rw [hop]
      exact ⟨⟨fun _ => ⟨rfl, rfl⟩, fun _ => ⟨rfl, rfl⟩, fun _ => ⟨rfl, rfl⟩⟩, fun _ => ⟨rfl, rfl⟩⟩
  · obtain rfl | rfl := hmem
    all_goals
      simp only [decode, hn]
      refine decodeImmOnly_answer (by omega) ?_
      rw [hop]
      exact ⟨fun _ => ⟨rfl, rfl⟩, fun _ => ⟨rfl, rfl⟩, fun _ => ⟨rfl, rfl⟩⟩
  · obtain rfl | rfl | rfl | rfl := hbranch
    all_goals
      simp only [decode, hn]
      refine instr_answer (by simp [HasImmediateRow, hn]) (by simp [UnknownWord, hn]) (boffWf_boffOf _) ?_
      have hign : ignoredBits w = 0 := by simp [ignoredBits, hn]
      have hw := append_opcode_off27 w
      rw [hop] at hw
      rw [hign, and_not_zero, encode, encodeB_boffOf]
      exact hw
  · obtain rfl | rfl | rfl := hz
    all_goals
      simp only [decode, hn]
      refine instr_answer (by simp [HasImmediateRow, hn]) (by simp [UnknownWord, hn]) rfl ?_
      have hign : ignoredBits w = ignoredZ := by simp [ignoredBits, hn]
      rw [hign, ← encodeZ_fields, hop]
      rfl
  · interval_cases n
    all_goals
      simp only [decode, hn]
      exact .unknownOpcode (by simp [UnknownWord, hn])

theorem decode_eq_instr {w : Word} {i : Instr} (h : decode w = .instr i) :
    ¬ UnknownWord w ∧ ¬ ReservedWord w ∧ i.wf = true ∧ encode i = w &&& ~~~ignoredBits w := by
  have ha := decode_answer w
  rw [h] at ha
  obtain ⟨_, hu, hr, hwf, henc⟩ | _ | _ := ha
  exact ⟨hu, hr, hwf, henc⟩

theorem decode_eq_unknownOpcode_iff (w : Word) : decode w = .unknownOpcode w ↔ UnknownWord w := by
  have ha := decode_answer w
  constructor
  · intro h
    rw [h] at ha
    cases ha
    assumption
  · intro hu
    generalize decode w = d at ha
    cases ha with
    | instr i hnot => exact absurd hu hnot
    | unknownOpcode => rfl
    | reserved hr => exact absurd hu (not_unknownWord_of_reservedWord hr)

theorem decode_eq_reserved_iff (w : Word) : decode w = .reserved w ↔ ReservedWord w := by
  have ha := decode_answer w
  constructor
  · intro h
    rw [h] at ha
    cases ha
    assumption
  · intro hr
    generalize decode w = d at ha
    cases ha with
    | instr i _ hnot => exact absurd hr hnot
    | unknownOpcode hu => exact absurd hu (not_unknownWord_of_reservedWord hr)
    | reserved => rfl

/-! ### The ignored bits (R63) -/

/-- The opcodes of format Z (R55). -/
def FormatZ (w : Word) : Prop :=
  (fieldOpcode w).toNat = 13 ∨ (fieldOpcode w).toNat = 20 ∨ (fieldOpcode w).toNat = 31

theorem ignoredBits_of_formatZ {w : Word} (h : FormatZ w) : ignoredBits w = ignoredZ := by
  obtain h | h | h := h <;> simp [ignoredBits, h]

theorem fieldOpcode_ignoredBits (w : Word) : fieldOpcode (ignoredBits w) = 0 := by
  unfold ignoredBits
  cases fieldI w <;> dsimp only <;> split <;> rfl

/-- Outside format Z the I bit counts, and with the I bit set so does the modifier. -/
theorem fields_ignoredBits_of_not_formatZ {w : Word} (h : ¬ FormatZ w) :
    fieldI (ignoredBits w) = false ∧ (fieldI w = true → fieldModifier (ignoredBits w) = 0) := by
  have hlt := (fieldOpcode w).isLt
  obtain ⟨n, hn⟩ : ∃ n, (fieldOpcode w).toNat = n := ⟨_, rfl⟩
  rw [FormatZ, hn] at h
  rw [hn] at hlt
  obtain hlow | ⟨hlo, hhi⟩ | ⟨hlo, hhi⟩ : n ≤ 12 ∨ (14 ≤ n ∧ n ≤ 19) ∨ (21 ≤ n ∧ n ≤ 30) := by omega
  all_goals
    clear h
    interval_cases n
  all_goals
    rw [ignoredBits, hn]
    cases fieldI w <;> decide

/-- Words that differ only where `w` has ignored bits have the fields that tell the formats apart in common. -/
theorem same_format_of_same_used {v w : Word} (hv : v &&& ~~~ignoredBits w = w &&& ~~~ignoredBits w) :
    fieldOpcode v = fieldOpcode w ∧
    (¬ FormatZ w → fieldI v = fieldI w ∧ (fieldI w = true → fieldModifier v = fieldModifier w)) := by
  have same {start len : Nat} (hm : (ignoredBits w).extractLsb' start len = 0) :
      v.extractLsb' start len = w.extractLsb' start len := by
    rw [← extractLsb'_and_not_of_zero v hm, hv, extractLsb'_and_not_of_zero w hm]
  refine ⟨same (fieldOpcode_ignoredBits w), fun hz => ?_⟩
  obtain ⟨hI, hmod⟩ := fields_ignoredBits_of_not_formatZ hz
  refine ⟨?_, fun hset => same (hmod hset)⟩
  rw [← fieldI_and_not_of_zero v hI, hv, fieldI_and_not_of_zero w hI]

theorem formatZ_congr {v w : Word} (hop : fieldOpcode v = fieldOpcode w) : FormatZ v ↔ FormatZ w := by
  rw [FormatZ, FormatZ, hop]

theorem ignoredBits_of_same_used {v w : Word} (hv : v &&& ~~~ignoredBits w = w &&& ~~~ignoredBits w) :
    ignoredBits v = ignoredBits w := by
  obtain ⟨hop, hfields⟩ := same_format_of_same_used hv
  by_cases hz : FormatZ w
  · rw [ignoredBits_of_formatZ hz, ignoredBits_of_formatZ ((formatZ_congr hop).mpr hz)]
  · obtain ⟨hI, -⟩ := hfields hz
    rw [ignoredBits, ignoredBits, hop, hI]

theorem reservedWord_of_same_used {v w : Word} (hv : v &&& ~~~ignoredBits w = w &&& ~~~ignoredBits w)
    (hr : ReservedWord v) : ReservedWord w := by
  obtain ⟨hop, hfields⟩ := same_format_of_same_used hv
  have hz : ¬ FormatZ w := by
    have hrow := hasImmediateRow_of_reservedWord hr
    rw [HasImmediateRow, hop] at hrow
    unfold FormatZ
    omega
  obtain ⟨hI, hmod⟩ := hfields hz
  rw [ReservedWord, HasImmediateRow, hop, hI] at hr
  obtain ⟨hrow, hset, hthree⟩ | hclear := hr
  · exact .inl ⟨hrow, hset, hmod hset ▸ hthree⟩
  · exact .inr hclear

/-- Decoding looks at no ignored bit: a word with the other bits of `w` decodes to an instruction with the same canonical
encoding, and that is the same instruction. -/
theorem decode_of_same_used {v w : Word} {i : Instr} (h : decode w = .instr i)
    (hv : v &&& ~~~ignoredBits w = w &&& ~~~ignoredBits w) : decode v = .instr i := by
  obtain ⟨hu, hr, hwf, henc⟩ := decode_eq_instr h
  obtain ⟨hop, -⟩ := same_format_of_same_used hv
  have ha := decode_answer v
  generalize decode v = d at ha
  cases ha with
  | instr j _ _ hjwf hjenc =>
    rw [ignoredBits_of_same_used hv, hv, ← henc] at hjenc
    rw [encode_injective hjwf hwf hjenc]
  | unknownOpcode hvu => exact absurd (by rwa [UnknownWord, hop] at hvu) hu
  | reserved hvr => exact absurd (reservedWord_of_same_used hv hvr) hr

/-- The bits of `m` lie among those of `a`. -/
theorem and_not_eq_zero_iff {m a : Word} : m &&& ~~~a = 0 ↔ ∀ k, m.getLsbD k = true → a.getLsbD k = true := by
  constructor
  · intro h k hm
    have hbit := congrArg (·.getLsbD k) h
    simpa [hm, BitVec.lt_of_getLsbD hm] using hbit
  · intro h
    apply BitVec.eq_of_getLsbD_eq
    intro k hk
    cases hm : m.getLsbD k with
    | false => rw [BitVec.getLsbD_and, hm, Bool.false_and, BitVec.ofNat_eq_ofNat, BitVec.getLsbD_zero]
    | true => rw [BitVec.getLsbD_and, BitVec.getLsbD_not, h k hm, Bool.not_true, Bool.and_false, Bool.and_false,
        BitVec.ofNat_eq_ofNat, BitVec.getLsbD_zero]

theorem and_not_eq_zero_trans {m a b : Word} (hma : m &&& ~~~a = 0) (hab : a &&& ~~~b = 0) : m &&& ~~~b = 0 :=
  and_not_eq_zero_iff.mpr fun k hm => and_not_eq_zero_iff.mp hab k (and_not_eq_zero_iff.mp hma k hm)

/-- Flipping bits of `a` only leaves the bits outside `a`. -/
theorem xor_and_not_of_subset {m a : Word} (w : Word) (hm : m &&& ~~~a = 0) : (w ^^^ m) &&& ~~~a = w &&& ~~~a := by
  apply BitVec.eq_of_getLsbD_eq
  intro k hk
  rw [BitVec.getLsbD_and, BitVec.getLsbD_and, BitVec.getLsbD_xor, BitVec.getLsbD_not]
  cases ha : a.getLsbD k with
  | true => simp
  | false =>
    have hmk : m.getLsbD k = false := by
      rw [← Bool.not_eq_true]
      intro hset
      exact absurd (ha.symm.trans (and_not_eq_zero_iff.mp hm k hset)) (by decide)
    rw [hmk, Bool.xor_false]

/-- A word that clearing the bits of `a` leaves as it is has none of them. -/
theorem and_eq_zero_of_eq_and_not {w a : Word} (h : w = w &&& ~~~a) : w &&& a = 0 := by
  rw [h, BitVec.and_assoc, BitVec.and_comm (~~~a), BitVec.and_not_self]
  exact BitVec.and_zero

/-! ### The rows of R63's table -/

theorem ignoredR_subset {w : Word} (hop : (fieldOpcode w).toNat ≤ 12) (hI : fieldI w = false) :
    ignoredR &&& ~~~ignoredBits w = 0 := by
  obtain ⟨n, hn⟩ : ∃ n, (fieldOpcode w).toNat = n := ⟨_, rfl⟩
  rw [hn] at hop
  rw [ignoredBits, hn, hI]
  interval_cases n <;> rfl

theorem ignoredRd_subset {w : Word} (hop : (fieldOpcode w).toNat = 5) : ignoredRd &&& ~~~ignoredBits w = 0 := by
  rw [ignoredBits, hop]
  cases fieldI w <;> rfl

theorem ignoredRs1_subset {w : Word} (hop : (fieldOpcode w).toNat = 8 ∨ (fieldOpcode w).toNat = 9) :
    ignoredRs1 &&& ~~~ignoredBits w = 0 := by
  obtain hop | hop := hop
  all_goals
    rw [ignoredBits, hop]
    cases fieldI w <;> rfl

theorem ignoredZ_subset {w : Word} (hz : FormatZ w) : ignoredZ &&& ~~~ignoredBits w = 0 := by
  rw [ignoredBits_of_formatZ hz]
  rfl

/-- A bit of R63's table is an ignored bit. -/
theorem and_not_ignoredBits_eq_zero {w m : Word}
    (h : ((fieldOpcode w).toNat ≤ 12 ∧ fieldI w = false ∧ m &&& ~~~ignoredR = 0) ∨
      ((fieldOpcode w).toNat = 5 ∧ m &&& ~~~ignoredRd = 0) ∨
      (((fieldOpcode w).toNat = 8 ∨ (fieldOpcode w).toNat = 9) ∧ m &&& ~~~ignoredRs1 = 0) ∨
      (FormatZ w ∧ m &&& ~~~ignoredZ = 0)) :
    m &&& ~~~ignoredBits w = 0 := by
  obtain ⟨hop, hI, hm⟩ | ⟨hop, hm⟩ | ⟨hop, hm⟩ | ⟨hop, hm⟩ := h
  · exact and_not_eq_zero_trans hm (ignoredR_subset hop hI)
  · exact and_not_eq_zero_trans hm (ignoredRd_subset hop)
  · exact and_not_eq_zero_trans hm (ignoredRs1_subset hop)
  · exact and_not_eq_zero_trans hm (ignoredZ_subset hop)

/-! ### Branches and the word 0 -/

/-- The words of a format B opcode decode to that opcode's branch, with the byte offset of their field (R54, R59). -/
theorem decode_append_off27 {op : BitVec 5} {off : Off27} {i : Instr} (hwf : i.wf = true)
    (henc : encode i = encodeB op (boffOf off)) : decode (op ++ off) = .instr i := by
  rw [← encodeB_boffOf, ← henc, decode_encode hwf]

namespace Machine

theorem exec_b_onlyJumps (boff : Word) (s : State) : OnlyJumps (.b boff) s ((s.pc + 4) + boff) :=
  ⟨_, rfl, fun _ => rfl, fun _ => rfl, ⟨rfl, rfl, rfl, rfl⟩, rfl⟩

/-- The word 0 at a fetchable pc: the cycle is `add r0, r0, r0` (R61). -/
theorem step_of_zero_word {s : State} (hs : s.status = .running) (hf : s.fetchable = true)
    (hw : s.mem.readWord s.pc.toNat = 0) :
    step s = .next (s.countCycle.writeReg 0 (s.readReg 0 + s.readReg 0)).advance := by
  have hadd : s.fetchDecode = .ok (.addR 0 0 0) := by
    rw [State.fetchDecode_eq_ok_iff, hw]
    exact ⟨hf, by decide⟩
  rw [step_of_running hs, hadd]
  rfl

end Machine

end Sys2Proof

/-! ### The obligations -/

open Sys2Proof Sys2Proof.Machine

/-- Settles O3: unknown words are told by the opcode, which is the word divided by 2^27, and the word 0 is fetched,
decoded and executed as an `add`. -/
theorem unknownOpcodesAreExactly21To30 : Obligations.UnknownOpcodesAreExactly21To30 := by
  refine ⟨fun w => ⟨?_, ?_, fun v => decode_unknownOpcode_eq⟩, by decide, fun s hs hf hw => ?_⟩
  · rw [decode_eq_unknownOpcode_iff, UnknownWord, fieldOpcode_toNat]
  · rw [decode_eq_unknownOpcode_iff, UnknownWord, fieldOpcode_toNat]
    omega
  · refine ⟨_, step_of_zero_word hs hf hw, ⟨?_, fun r hr => ?_⟩, rfl⟩
    · rw [State.advance_readReg, State.writeReg_readReg_self]
    · rw [State.advance_readReg, State.writeReg_readReg_of_ne _ _ hr, State.countCycle_readReg]

/-- Settles O4: `ReservedWord` is the statement's pattern, with the modifier 0b11 as two bits. -/
theorem reservedPatternsAreExactlyTwo : Obligations.ReservedPatternsAreExactlyTwo := by
  intro w
  refine ⟨?_, fun v => decode_reserved_eq⟩
  rw [decode_eq_reserved_iff, ReservedWord, HasImmediateRow, fieldModifier_eq_three_iff, fieldI]

/-- Settles O5: flipping and clearing both keep the bits that `decode_of_same_used` asks for, and the canonical encoding
is what `decode_answer` says it is. -/
theorem ignoredBitsDoNotMatter : Obligations.IgnoredBitsDoNotMatter := by
  refine ⟨fun w m i h hm => ?_, fun w i h => ?_, fun i hwf => ?_⟩
  · exact decode_of_same_used h (xor_and_not_of_subset w (and_not_ignoredBits_eq_zero hm))
  · obtain ⟨-, -, -, henc⟩ := decode_eq_instr h
    exact ⟨decode_of_same_used h (by rw [BitVec.and_assoc, BitVec.and_self]), henc⟩
  · obtain ⟨-, -, -, henc⟩ := decode_eq_instr (decode_encode hwf)
    exact and_eq_zero_of_eq_and_not henc

/-- Settles O8: the offset in the integers is four times the field (`toInt_boffOf`), branch words are encodings, and the
assembler formula inverts `boffOf` on the distance from `A + 4` to `L`. -/
theorem branchOffsetsCountWords : Obligations.BranchOffsetsCountWords := by
  refine ⟨fun off => ?_, fun A L hA hL hlo hhi => ?_⟩
  · have hwf := boffWf_boffOf off
    obtain ⟨halign, hlo, hhi⟩ := (boffWf_iff _).mp hwf
    exact ⟨toInt_boffOf off, halign, hlo, hhi, decode_append_off27 hwf rfl, decode_append_off27 hwf rfl,
      decode_append_off27 hwf rfl, decode_append_off27 hwf rfl, exec_b_onlyJumps (boffOf off)⟩
  · have halign : (L - (A + 4)).toNat % 4 = 0 := by bv_omega
    rw [boffOf_ofInt_div_four ((boffWf_iff _).mpr ⟨halign, hlo, hhi⟩), BitVec.add_comm, BitVec.sub_add_cancel]

end

section
/-! PROOFS. The arithmetic instructions (spec/40_arithmetic.md R81 to R85): what an ALU instruction's four forms do, said
once for any ALU function, then the integers behind each arithmetic ALU function, then the statements O33 to O37. -/

namespace Sys2Proof.Machine

/-! ### The four forms of an ALU instruction (R57, R58, R80) -/

/-- An instruction that ends in `writeAndAdvance` changes its destination and the pc, and nothing else. -/
theorem writesReg_of_exec {i : Instr} {s : State} {rd : Reg} {v : Word} (hx : exec i s = writeAndAdvance rd v s) :
    WritesReg i s rd v := by
  refine ⟨_, hx, ⟨?_, fun r hr => ?_⟩, fun _ => rfl, ⟨rfl, rfl, rfl, rfl⟩, rfl⟩
  · rw [State.advance_readReg, State.writeReg_readReg_self]
  · rw [State.advance_readReg, State.writeReg_readReg_of_ne _ _ hr]

/-- An ALU function that each of the four meanings applies to its operands, and that computes `f`, gives the four forms
of `f`. -/
theorem aluForms_of_exec {r : Reg → Reg → Reg → Instr} {i u h : Reg → Reg → Imm16 → Instr} {alu f : Word → Word → Word}
    (hf : ∀ a b, alu a b = f a b)
    (hx : ∀ s rd rs1,
      (∀ rs2, exec (r rd rs1 rs2) s = writeAndAdvance rd (alu (s.readReg rs1) (s.readReg rs2)) s) ∧
      ∀ imm,
        exec (i rd rs1 imm) s = writeAndAdvance rd (alu (s.readReg rs1) (immSigned imm)) s ∧
        exec (u rd rs1 imm) s = writeAndAdvance rd (alu (s.readReg rs1) (immUnsigned imm)) s ∧
        exec (h rd rs1 imm) s = writeAndAdvance rd (alu (s.readReg rs1) (immHigh imm)) s) :
    AluForms r i u h f := by
  intro s rd rs1
  obtain rfl : alu = f := funext₂ hf
  obtain ⟨hreg, himm⟩ := hx s rd rs1
  refine ⟨fun rs2 => writesReg_of_exec (hreg rs2), fun imm => ?_⟩
  obtain ⟨hsigned, hunsigned, hhigh⟩ := himm imm
  exact ⟨writesReg_of_exec hsigned, writesReg_of_exec hunsigned, writesReg_of_exec hhigh⟩

/-! ### Sum, difference, product (R81 to R83) -/

theorem aluAdd_eq_ofNat (a b : Word) : aluAdd a b = BitVec.ofNat 32 (a.toNat + b.toNat) := by
  rw [aluAdd, BitVec.ofNat_add, BitVec.ofNat_toNat, BitVec.ofNat_toNat, BitVec.setWidth_eq, BitVec.setWidth_eq]

theorem aluAdd_eq_ofInt (a b : Word) : aluAdd a b = BitVec.ofInt 32 (a.toInt + b.toInt) := by
  rw [aluAdd, BitVec.ofInt_add, BitVec.ofInt_toInt, BitVec.ofInt_toInt]

theorem aluSub_eq_add_not_add_one (a b : Word) : aluSub a b = a + ~~~b + 1 := by
  rw [aluSub, BitVec.sub_eq_add_neg, BitVec.neg_eq_not_add, BitVec.ofNat_eq_ofNat, BitVec.add_assoc]

theorem aluSub_eq_ofInt (a b : Word) : aluSub a b = BitVec.ofInt 32 (a.toInt - b.toInt) := by
  have hsum : BitVec.ofInt 32 (a.toInt - b.toInt) + b = a := calc
    BitVec.ofInt 32 (a.toInt - b.toInt) + b
    _ = BitVec.ofInt 32 (a.toInt - b.toInt) + BitVec.ofInt 32 b.toInt := by rw [BitVec.ofInt_toInt]
    _ = a := by rw [← BitVec.ofInt_add, Int.sub_add_cancel, BitVec.ofInt_toInt]
  exact (BitVec.eq_sub_iff_add_eq.mpr hsum).symm

theorem aluMul_eq_mul (a b : Word) : aluMul a b = a * b := by
  rw [aluMul, BitVec.ofInt_mul, BitVec.ofInt_toInt, BitVec.ofInt_toInt]

theorem aluMul_eq_ofNat (a b : Word) : aluMul a b = BitVec.ofNat 32 (a.toNat * b.toNat) := by
  rw [aluMul_eq_mul, BitVec.ofNat_mul, BitVec.ofNat_toNat, BitVec.ofNat_toNat, BitVec.setWidth_eq, BitVec.setWidth_eq]

/-! ### Quotient and remainder (R84, R85) -/

theorem aluDiv_of_ne_zero (a : Word) {b : Word} (hb : b ≠ 0) : aluDiv a b = BitVec.ofInt 32 (a.toInt.tdiv b.toInt) :=
  if_neg hb

theorem aluMod_eq_tmod (a b : Word) :
    aluMod a b = if b = 0 then (Config.div0 a).r else BitVec.ofInt 32 (a.toInt.tmod b.toInt) := by
  rw [aluMod, Int.tmod_def]

theorem aluMod_of_ne_zero (a : Word) {b : Word} (hb : b ≠ 0) : aluMod a b = BitVec.ofInt 32 (a.toInt.tmod b.toInt) := by
  rw [aluMod_eq_tmod, if_neg hb]

/-- The remainder always fits a word, unlike the quotient of -2^31 by -1. -/
theorem toInt_aluMod (a : Word) {b : Word} (hb : b ≠ 0) : (aluMod a b).toInt = a.toInt.tmod b.toInt := by
  rw [aluMod_of_ne_zero a hb, ← BitVec.toInt_srem, BitVec.ofInt_toInt]

/-- Wrapping commutes with sum and product, so the division identity of the integers survives a quotient that wraps. -/
theorem ofInt_mul_aluDiv_add_aluMod (a : Word) {b : Word} (hb : b ≠ 0) :
    BitVec.ofInt 32 (b.toInt * (aluDiv a b).toInt + (aluMod a b).toInt) = a := calc
  BitVec.ofInt 32 (b.toInt * (aluDiv a b).toInt + (aluMod a b).toInt)
  _ = BitVec.ofInt 32 b.toInt * aluDiv a b + aluMod a b := by
    rw [BitVec.ofInt_add, BitVec.ofInt_mul, BitVec.ofInt_toInt, BitVec.ofInt_toInt (x := aluDiv a b),
      BitVec.ofInt_toInt (x := aluMod a b)]
  _ = BitVec.ofInt 32 (b.toInt * a.toInt.tdiv b.toInt + a.toInt.tmod b.toInt) := by
    rw [aluDiv_of_ne_zero a hb, aluMod_of_ne_zero a hb, ← BitVec.ofInt_mul, ← BitVec.ofInt_add]
  _ = a := by rw [Int.mul_tdiv_add_tmod, BitVec.ofInt_toInt]

theorem natAbs_toInt_aluMod_lt (a : Word) {b : Word} (hb : b ≠ 0) : (aluMod a b).toInt.natAbs < b.toInt.natAbs := by
  rw [toInt_aluMod a hb, Int.natAbs_tmod]
  exact Nat.mod_lt _ (Int.natAbs_pos.mpr (BitVec.toInt_ne.mpr hb))

theorem toInt_aluMod_nonneg {a b : Word} (hb : b ≠ 0) (ha : 0 ≤ a.toInt) : 0 ≤ (aluMod a b).toInt := by
  rw [toInt_aluMod a hb]
  exact Int.tmod_nonneg _ ha

theorem toInt_aluMod_nonpos {a b : Word} (hb : b ≠ 0) (ha : a.toInt ≤ 0) : (aluMod a b).toInt ≤ 0 := by
  have hneg := Int.tmod_nonneg b.toInt (Int.neg_nonneg_of_nonpos ha)
  rw [Int.neg_tmod] at hneg
  rw [toInt_aluMod a hb]
  exact Int.nonpos_of_neg_nonneg hneg

end Sys2Proof.Machine

/-! ### The obligations -/

open Sys2Proof Sys2Proof.Machine

/-- Settles O37: the four forms by `aluMod_eq_tmod`; the identity, the bound and the sign hold of the integer remainder,
which the written word is (`toInt_aluMod`). -/
theorem modWritesTheRemainder : Obligations.ModWritesTheRemainder := by
  refine ⟨?_, fun a b => ?_, fun a b hb => ⟨?_, ?_, ?_, ?_⟩, rfl⟩
  · exact aluForms_of_exec aluMod_eq_tmod fun _ _ _ => ⟨fun _ => rfl, fun _ => ⟨rfl, rfl, rfl⟩⟩
  · rw [Int.tmod_def]
  · exact (ofInt_mul_aluDiv_add_aluMod a hb).symm
  · exact natAbs_toInt_aluMod_lt a hb
  · exact toInt_aluMod_nonneg hb
  · exact toInt_aluMod_nonpos hb

/-- Settles O33: the sum of words is the wrapped sum of their values in either reading. -/
theorem addWritesTheWrappedSum : Obligations.AddWritesTheWrappedSum := by
  refine ⟨?_, fun a b => ?_, BitVec.add_comm, BitVec.add_assoc, rfl, rfl⟩
  · exact aluForms_of_exec aluAdd_eq_ofNat fun _ _ _ => ⟨fun _ => rfl, fun _ => ⟨rfl, rfl, rfl⟩⟩
  · rw [← aluAdd_eq_ofNat, aluAdd_eq_ofInt]

/-- Settles O34: subtracting is adding the two's complement, with `x[rs1]` as the minuend. -/
theorem subWritesTheWrappedDifference : Obligations.SubWritesTheWrappedDifference := by
  refine ⟨?_, fun a b => ?_, rfl⟩
  · exact aluForms_of_exec aluSub_eq_add_not_add_one fun _ _ _ => ⟨fun _ => rfl, fun _ => ⟨rfl, rfl, rfl⟩⟩
  · rw [← aluSub_eq_add_not_add_one, aluSub_eq_ofInt]

/-- Settles O35: the low word of the product is the product of words, which knows no sign. -/
theorem mulWritesTheLowWord : Obligations.MulWritesTheLowWord := by
  refine ⟨?_, aluMul_eq_ofNat, rfl⟩
  exact aluForms_of_exec (alu := aluMul) (fun _ _ => rfl) fun _ _ _ => ⟨fun _ => rfl, fun _ => ⟨rfl, rfl, rfl⟩⟩

/-- Settles O36: `aluDiv` is the statement's function, the free value of `div0` included. -/
theorem divWritesTheTruncatedQuotient : Obligations.DivWritesTheTruncatedQuotient := by
  refine ⟨?_, by decide, rfl⟩
  exact aluForms_of_exec (alu := aluDiv) (fun _ _ => rfl) fun _ _ _ => ⟨fun _ => rfl, fun _ => ⟨rfl, rfl, rfl⟩⟩

end

section
/-! PROOFS. The logical, move and shift instructions (spec/41_logical.md R91 to R97): the forms of a two-operand ALU
instruction said once for any ALU function, the shift amount, the integers behind each function, then the statements O38
to O44. -/

namespace Sys2Proof.Machine

/-! ### The four forms of `not` and `mov` (R57, R58, R90) -/

/-- An ALU function that each of the four meanings applies to its second operand, and that computes `f`, gives the four
forms of `f`. -/
theorem unaryForms_of_exec {r : Reg → Reg → Instr} {i u h : Reg → Imm16 → Instr} {alu f : Word → Word}
    (hf : ∀ b, alu b = f b)
    (hx : ∀ s rd,
      (∀ rs2, exec (r rd rs2) s = writeAndAdvance rd (alu (s.readReg rs2)) s) ∧
      ∀ imm,
        exec (i rd imm) s = writeAndAdvance rd (alu (immSigned imm)) s ∧
        exec (u rd imm) s = writeAndAdvance rd (alu (immUnsigned imm)) s ∧
        exec (h rd imm) s = writeAndAdvance rd (alu (immHigh imm)) s) :
    UnaryForms r i u h f := by
  intro s rd
  obtain rfl : alu = f := funext hf
  obtain ⟨hreg, himm⟩ := hx s rd
  refine ⟨fun rs2 => writesReg_of_exec (hreg rs2), fun imm => ?_⟩
  obtain ⟨hsigned, hunsigned, hhigh⟩ := himm imm
  exact ⟨writesReg_of_exec hsigned, writesReg_of_exec hunsigned, writesReg_of_exec hhigh⟩

/-! ### Complement (R93) -/

theorem aluNot_eq_ofNat (b : Word) : aluNot b = BitVec.ofNat 32 (2 ^ 32 - 1 - b.toNat) := by
  rw [aluNot, ← BitVec.toNat_not, BitVec.ofNat_toNat, BitVec.setWidth_eq]

/-! ### Shifts (R95 to R97) -/

/-- The low five bits of the second operand are its value modulo 32. -/
theorem shiftAmount_eq_mod (b : Word) : shiftAmount b = b.toNat % 32 := by
  rw [shiftAmount, BitVec.extractLsb'_toNat, Nat.shiftRight_zero]

theorem aluLsl_eq_ofNat (a b : Word) : aluLsl a b = BitVec.ofNat 32 (a.toNat * 2 ^ (b.toNat % 32)) := by
  rw [aluLsl, shiftAmount_eq_mod, ← Nat.shiftLeft_eq]
  exact BitVec.eq_of_toNat_eq BitVec.toNat_shiftLeft

theorem aluLsr_eq_ofNat (a b : Word) : aluLsr a b = BitVec.ofNat 32 (a.toNat / 2 ^ (b.toNat % 32)) := by
  rw [aluLsr, shiftAmount_eq_mod, ← Nat.shiftRight_eq_div_pow, ← BitVec.toNat_ushiftRight, BitVec.ofNat_toNat,
    BitVec.setWidth_eq]

/-- Division of integers by a positive number rounds toward minus infinity, as copies of the sign bit entering do. -/
theorem aluAsr_eq_ofInt (a b : Word) : aluAsr a b = BitVec.ofInt 32 (a.toInt / 2 ^ (b.toNat % 32)) := calc
  aluAsr a b
  _ = BitVec.ofInt 32 (a.sshiftRight (b.toNat % 32)).toInt := by rw [BitVec.ofInt_toInt, aluAsr, shiftAmount_eq_mod]
  _ = BitVec.ofInt 32 (a.toInt / 2 ^ (b.toNat % 32)) := by
    rw [BitVec.toInt_sshiftRight, Int.shiftRight_eq_div_pow, Nat.cast_pow, Nat.cast_ofNat]

end Sys2Proof.Machine

/-! ### The obligations -/

open Sys2Proof Sys2Proof.Machine

/-- Settles O44: an arithmetic shift is the floor of the signed value over a power of two (`aluAsr_eq_ofInt`). -/
theorem asrDividesTowardMinusInfinity : Obligations.AsrDividesTowardMinusInfinity := by
  refine ⟨?_, rfl⟩
  exact aluForms_of_exec aluAsr_eq_ofInt fun _ _ _ => ⟨fun _ => rfl, fun _ => ⟨rfl, rfl, rfl⟩⟩

/-- Settles O38: `aluAnd` is the conjunction of words, which is bitwise. -/
theorem andWritesTheConjunction : Obligations.AndWritesTheConjunction := by
  refine ⟨?_, fun _ _ _ _ => BitVec.getLsbD_and, rfl⟩
  exact aluForms_of_exec (alu := aluAnd) (fun _ _ => rfl) fun _ _ _ => ⟨fun _ => rfl, fun _ => ⟨rfl, rfl, rfl⟩⟩

/-- Settles O39: `aluOr` is the disjunction of words, which is bitwise. -/
theorem orWritesTheDisjunction : Obligations.OrWritesTheDisjunction := by
  refine ⟨?_, fun _ _ _ _ => BitVec.getLsbD_or, rfl⟩
  exact aluForms_of_exec (alu := aluOr) (fun _ _ => rfl) fun _ _ _ => ⟨fun _ => rfl, fun _ => ⟨rfl, rfl, rfl⟩⟩

/-- Settles O40: inverting every bit of the second operand subtracts it from 2^32 - 1 (`aluNot_eq_ofNat`). -/
theorem notWritesTheComplement : Obligations.NotWritesTheComplement := by
  refine ⟨?_, rfl⟩
  exact unaryForms_of_exec aluNot_eq_ofNat fun _ _ => ⟨fun _ => rfl, fun _ => ⟨rfl, rfl, rfl⟩⟩

/-- Settles O41: `aluMov` hands the second operand through. -/
theorem movWritesTheSecondOperand : Obligations.MovWritesTheSecondOperand := by
  refine ⟨?_, rfl, rfl, rfl, rfl⟩
  exact unaryForms_of_exec (alu := aluMov) (fun _ => rfl) fun _ _ => ⟨fun _ => rfl, fun _ => ⟨rfl, rfl, rfl⟩⟩

/-- Settles O42: a left shift multiplies by a power of two and wraps (`aluLsl_eq_ofNat`). -/
theorem lslMultipliesByAPowerOfTwo : Obligations.LslMultipliesByAPowerOfTwo := by
  refine ⟨?_, rfl⟩
  exact aluForms_of_exec aluLsl_eq_ofNat fun _ _ _ => ⟨fun _ => rfl, fun _ => ⟨rfl, rfl, rfl⟩⟩

/-- Settles O43: a logical right shift divides the unsigned value by a power of two (`aluLsr_eq_ofNat`). -/
theorem lsrDividesByAPowerOfTwo : Obligations.LsrDividesByAPowerOfTwo := by
  refine ⟨?_, rfl⟩
  exact aluForms_of_exec aluLsr_eq_ofNat fun _ _ _ => ⟨fun _ => rfl, fun _ => ⟨rfl, rfl, rfl⟩⟩

end

section
/-! PROOFS. The compare instruction (spec/42_compare.md R100, R101) and the invariant every step keeps: the flags of a pair
of operands, the four forms of `cmp`, the truth of a recorded fault, then the statements O16, O45 and O46. -/

namespace Sys2Proof.Machine

/-! ### The flags of a pair of operands (R100) -/

theorem compareEq_eq_decide (a b : Word) : compareEq a b = decide (a = b) := rfl

/-- Equal words have equal values, so E excludes GT. -/
theorem not_compareEq_and_compareGt (a b : Word) : ¬(compareEq a b = true ∧ compareGt a b = true) := by
  rintro ⟨heq, hgt⟩
  obtain rfl : a = b := of_decide_eq_true heq
  exact lt_irrefl _ (of_decide_eq_true hgt)

/-! ### The four forms of `cmp` (R57, R58, R100) -/

/-- An instruction that ends in `compareAndAdvance` changes the flags and the pc, and nothing else. -/
theorem onlyCompares_of_exec {i : Instr} {s : State} {a b : Word} (hx : exec i s = compareAndAdvance a b s) :
    OnlyCompares i s (compareEq a b) (compareGt a b) :=
  ⟨_, hx, fun _ => rfl, fun _ => rfl, rfl, rfl, rfl, rfl, rfl⟩

theorem cmp_compareForms : CompareForms .cmpR .cmpI .cmpu .cmph compareEq compareGt := fun _ _ =>
  ⟨fun _ => onlyCompares_of_exec rfl,
    fun _ => ⟨onlyCompares_of_exec rfl, onlyCompares_of_exec rfl, onlyCompares_of_exec rfl⟩⟩

/-! ### Zero, negative and overflow of the difference (R101) -/

theorem subZero_eq_compareEq (a b : Word) : subZero a b = compareEq a b :=
  decide_eq_decide.mpr sub_eq_zero

/-- Bit 31 is the sign of the signed reading. -/
theorem getLsbD_31_eq_decide (w : Word) : w.getLsbD 31 = decide (w.toInt < 0) := by
  rw [← BitVec.msb_eq_toInt, BitVec.msb_eq_getLsbD_last]

theorem toInt_mem_range (w : Word) : -2 ^ 31 ≤ w.toInt ∧ w.toInt < 2 ^ 31 := ⟨w.le_toInt, w.toInt_lt⟩

/-- The signed reading of the difference is the exact difference, or misses it by 2^32 when that does not fit a word. -/
theorem toInt_sub_cases (a b : Word) :
    (a - b).toInt = a.toInt - b.toInt ∨
    (2 ^ 31 ≤ a.toInt - b.toInt ∧ (a - b).toInt = a.toInt - b.toInt - 2 ^ 32) ∨
    (a.toInt - b.toInt < -2 ^ 31 ∧ (a - b).toInt = a.toInt - b.toInt + 2 ^ 32) := by
  have hwrap : (a - b).toInt = (a.toInt - b.toInt).bmod (2 ^ 32) := BitVec.toInt_sub
  rw [Int.bmod_def] at hwrap
  have ha := toInt_mem_range a
  have hb := toInt_mem_range b
  split at hwrap <;> omega

/-- N is the sign of the difference that a word can hold. -/
theorem subNegative_iff (a b : Word) : subNegative a b = true ↔ (a - b).toInt < 0 := by
  rw [subNegative, getLsbD_31_eq_decide, decide_eq_true_iff]

/-- V is set exactly when the exact difference does not fit a word. -/
theorem subOverflow_iff (a b : Word) : subOverflow a b = true ↔ (a - b).toInt ≠ a.toInt - b.toInt := by
  have ha := toInt_mem_range a
  have hb := toInt_mem_range b
  have hcases := toInt_sub_cases a b
  simp only [subOverflow, getLsbD_31_eq_decide, Bool.and_eq_true, bne_iff_ne, ne_eq, decide_eq_decide]
  omega

/-- N and V agree exactly when the exact difference is not negative: when it does not fit a word, N has the wrong sign. -/
theorem subNegative_eq_subOverflow_iff (a b : Word) : subNegative a b = subOverflow a b ↔ b.toInt ≤ a.toInt := by
  rw [Bool.eq_iff_iff, subNegative_iff, subOverflow_iff]
  have ha := toInt_mem_range a
  have hb := toInt_mem_range b
  obtain hfits | ⟨hbig, hwrap⟩ | ⟨hsmall, hwrap⟩ := toInt_sub_cases a b <;> omega

theorem compareGt_eq_not_subZero_and (a b : Word) :
    compareGt a b = (!subZero a b && (subNegative a b == subOverflow a b)) := by
  have hlt : a.toInt > b.toInt ↔ a ≠ b ∧ b.toInt ≤ a.toInt := by
    rw [ne_eq, ← BitVec.toInt_inj]
    omega
  rw [subZero_eq_compareEq, compareEq_eq_decide, Bool.eq_iff_iff, compareGt, decide_eq_true_iff, hlt,
    ← subNegative_eq_subOverflow_iff]
  simp

/-! ### A recorded fault says what happened (R160 to R164) -/

/-- Recording a fault changes nothing that the truth of a record looks at. -/
theorem faultTruthful_takeFault_iff (s : State) (d c : FaultCause) :
    (s.takeFault d).FaultTruthful c ↔ s.FaultTruthful c := by
  cases c with
  | decodeUnknownOpcode | decodeReserved => rfl
  | memUnaligned k | memOutOfBounds k => cases k <;> rfl

theorem faultTruthful_of_fetchDecode {s : State} {c : FaultCause} (h : s.fetchDecode = .error c) : s.FaultTruthful c := by
  obtain ha | ⟨hf, ⟨rfl, hd⟩ | ⟨rfl, hd⟩⟩ := (s.fetchDecode_eq_error_iff c).mp h
  · obtain ⟨hal, rfl⟩ | ⟨hal, hsize, rfl⟩ := (checkAccess_eq_some_iff _ _ _ _).mp ha
    · exact ⟨rfl, hal⟩
    · exact ⟨rfl, hal, hsize⟩
  · exact ⟨hf, rfl, hd⟩
  · exact ⟨hf, rfl, hd⟩

/-- The fault of a load's or a store's access, recorded while that instruction stands at `pc`. -/
theorem faultTruthful_of_dataAccess {s : State} {i : Instr} {k : AccessKind} {ea : Word} {c : FaultCause}
    (hf : s.fetchDecode = .ok i) (hk : (k = .load ∧ i.instrClass = .load) ∨ (k = .store ∧ i.instrClass = .store))
    (ha : checkAccess k ea s.memSize = some c) : s.FaultTruthful c := by
  obtain ⟨hal, rfl⟩ | ⟨hal, hsize, rfl⟩ := (checkAccess_eq_some_iff _ _ _ _).mp ha
  · obtain ⟨rfl, hc⟩ | ⟨rfl, hc⟩ := hk <;> exact ⟨hal, i, hf, hc⟩
  · obtain ⟨rfl, hc⟩ | ⟨rfl, hc⟩ := hk <;> exact ⟨hal, hsize, i, hf, hc⟩

/-! ### What keeps the invariant -/

theorem not_faulted_of_running {s : State} (h : s.status = .running) (c : FaultCause) : s.status ≠ .faulted c := by
  rw [h]
  exact Status.noConfusion

/-- A state with no fault on record needs only the parts of the invariant about size, memory and flags. -/
theorem inv_of_not_faulted {s : State} (hsize : Config.LegalMemSize s.memSize) (hwf : s.mem.wf)
    (hrange : ∀ c ∈ s.mem, c.1 < s.memSize) (hflags : ¬(s.flags.e = true ∧ s.flags.gt = true))
    (hs : ∀ c, s.status ≠ .faulted c) : s.Inv :=
  ⟨hsize, hwf, hrange, hflags, fun c hc => absurd hc (hs c)⟩

theorem inv_countCycle {s : State} (h : s.Inv) (hs : s.status = .running) : s.countCycle.Inv :=
  inv_of_not_faulted h.size h.memWf h.memInRange h.flagsExclusive (not_faulted_of_running hs)

theorem inv_takeFault {s : State} {c : FaultCause} (h : s.Inv) (hc : s.FaultTruthful c) : (s.takeFault c).Inv where
  size := h.size
  memWf := h.memWf
  memInRange := h.memInRange
  flagsExclusive := h.flagsExclusive
  faultTruthful d hd := by
    cases hd
    exact (faultTruthful_takeFault_iff s c c).mpr hc

/-- Executing the instruction at `pc` of a running core keeps the invariant: a store that is made stays in range and in
canonical form, a compare latches exclusive flags, and a recorded fault is that of the access. -/
theorem inv_exec {i : Instr} {s t : State} (h : s.Inv) (hs : s.status = .running) (hf : s.fetchDecode = .ok i)
    (hx : exec i s = .next t) : t.Inv := by
  have hrun := not_faulted_of_running hs
  cases exec_next_effect hx with
  | stored ea v ha =>
    obtain ⟨-, hle⟩ := (checkAccess_eq_none_iff _ _ _).mp ha
    exact inv_of_not_faulted h.size (Memory.wf_writeWord h.memWf _ v) (Memory.writeWord_inRange v h.memInRange hle)
      h.flagsExclusive hrun
  | compared a b => exact inv_of_not_faulted h.size h.memWf h.memInRange (not_compareEq_and_compareGt a b) hrun
  | loadFault ea c ha hc => exact inv_takeFault h (faultTruthful_of_dataAccess hf (.inl ⟨rfl, hc⟩) ha)
  | storeFault ea c ha hc => exact inv_takeFault h (faultTruthful_of_dataAccess hf (.inr ⟨rfl, hc⟩) ha)
  | halted => exact inv_of_not_faulted h.size h.memWf h.memInRange h.flagsExclusive fun _ => Status.noConfusion
  | _ => exact inv_of_not_faulted h.size h.memWf h.memInRange h.flagsExclusive hrun

end Sys2Proof.Machine

/-! ### The obligations -/

open Sys2Proof Sys2Proof.Machine

/-- Settles O16: the counted cycle keeps the invariant, and then either the instruction executes or the fault of fetch or
decode is recorded truthfully. -/
theorem stepKeepsTheMachineInvariant : Obligations.StepKeepsTheMachineInvariant := by
  intro s t h hstep
  obtain ⟨hs, ⟨i, hf, hx⟩ | ⟨c, hf, rfl⟩⟩ := step_next_cases hstep
  · exact inv_exec (inv_countCycle h hs) hs hf hx
  · exact inv_takeFault (inv_countCycle h hs) (faultTruthful_of_fetchDecode hf)

/-- Settles O46: E is Z because a difference is 0 exactly for equal operands; GT by the sign of the exact difference
(`subNegative_eq_subOverflow_iff`). -/
theorem compareFlagsFromZeroNegativeOverflow : Obligations.CompareFlagsFromZeroNegativeOverflow := fun a b =>
  ⟨(subZero_eq_compareEq a b).symm, compareGt_eq_not_subZero_and a b⟩

/-- Settles O45: `compareEq` and `compareGt` are the statement's functions, and the words differ in the ignored rd field
only. -/
theorem compareLatchesBothFlags : Obligations.CompareLatchesBothFlags :=
  ⟨cmp_compareForms, not_compareEq_and_compareGt, rfl, rfl⟩

end

section
/-! PROOFS. The control transfers (spec/43_branch.md R105 to R111): alignment of their targets, what a transfer that only
sets the pc changes, `bgt` after a compare, the fault of the next fetch, then the statements O24 and O47 to O51. -/

namespace Sys2Proof.Machine

/-! ### Alignment of the pc (R16, R111) -/

theorem wf_of_fetchDecode {s : State} {i : Instr} (h : s.fetchDecode = .ok i) : i.wf = true := by
  obtain ⟨-, hdecode⟩ := (s.fetchDecode_eq_ok_iff i).mp h
  obtain ⟨-, -, hwf, -⟩ := decode_eq_instr hdecode
  exact hwf

theorem aligned_add {a b : Word} (ha : a.toNat % 4 = 0) (hb : b.toNat % 4 = 0) : (a + b).toNat % 4 = 0 := by
  bv_omega

theorem pcPlus4_aligned {s : State} (h : s.pc.toNat % 4 = 0) : s.pcPlus4.toNat % 4 = 0 :=
  aligned_add h rfl

theorem branchTarget_aligned {s : State} {boff : Word} (h : s.pc.toNat % 4 = 0) (hwf : boffWf boff = true) :
    (branchTarget s boff).toNat % 4 = 0 := by
  obtain ⟨hboff, -, -⟩ := (boffWf_iff boff).mp hwf
  exact aligned_add (pcPlus4_aligned h) hboff

/-- Only `ret` can leave an aligned pc unaligned: every other well-formed instruction keeps the pc, adds 4 to it, or goes to
the target of an aligned offset. -/
theorem exec_pc_aligned {i : Instr} {s t : State} (hpc : s.pc.toNat % 4 = 0) (hwf : i.wf = true) (hret : i ≠ .ret)
    (h : exec i s = .next t) : t.pc.toNat % 4 = 0 := by
  cases exec_next_effect h with
  | wroteReg | compared | stored | passed => exact pcPlus4_aligned hpc
  | loadFault | storeFault | halted => exact hpc
  | branched boff target ht hb =>
    obtain rfl | rfl := ht
    · exact branchTarget_aligned hpc (hb.symm.trans hwf)
    · exact pcPlus4_aligned hpc
  | called boff hi =>
    subst hi
    exact branchTarget_aligned hpc hwf
  | returned hi => exact absurd hi hret

/-! ### Transfers that only set the pc (R106 to R108, R110) -/

theorem onlyJumps_of_exec {i : Instr} {s : State} {target : Word} (hx : exec i s = .next (s.jump target)) :
    OnlyJumps i s target :=
  ⟨_, hx, s.jump_readReg target, fun _ => rfl, ⟨rfl, rfl, rfl, rfl⟩, rfl⟩

theorem exec_beq_onlyJumps (boff : Word) (s : State) :
    OnlyJumps (.beq boff) s (if s.flags.e = true then (s.pc + 4) + boff else s.pc + 4) :=
  onlyJumps_of_exec (branchIf_eq s.flags.e boff s)

theorem exec_bgt_onlyJumps (boff : Word) (s : State) :
    OnlyJumps (.bgt boff) s (if s.flags.gt = true then (s.pc + 4) + boff else s.pc + 4) :=
  onlyJumps_of_exec (branchIf_eq s.flags.gt boff s)

theorem exec_ret_onlyJumps (s : State) : OnlyJumps .ret s (s.readReg 15) := onlyJumps_of_exec rfl

/-- After a compare of `a` and `b`, in whatever form, `bgt` sees the signed comparison that it latched (R100, R107). -/
theorem exec_bgt_onlyJumps_of_compare {i : Instr} {s t : State} {a b : Word} (boff : Word)
    (hx : exec i s = compareAndAdvance a b s) (h : exec i s = .next t) :
    OnlyJumps (.bgt boff) t (if a.toInt > b.toInt then (t.pc + 4) + boff else t.pc + 4) := by
  have hgt : t.flags.gt = decide (a.toInt > b.toInt) := by
    cases hx.symm.trans h
    rfl
  simpa only [hgt, decide_eq_true_eq] using exec_bgt_onlyJumps boff t

/-! ### The fault of a fetch (R16, R110) -/

theorem step_of_fetch_fault {s : State} {c : FaultCause} (hs : s.status = .running)
    (hc : checkAccess .fetch s.pc s.memSize = some c) :
    step s = .next { s with status := .faulted c, cycles := s.cycles + 1 } := by
  rw [step_of_running hs, (s.fetchDecode_eq_error_iff c).mpr (.inl hc)]
  rfl

end Sys2Proof.Machine

/-! ### The obligations -/

open Sys2Proof Sys2Proof.Machine

/-- Settles O24: a fetched instruction is well-formed, so its offset is aligned (`exec_pc_aligned`); a fault of fetch or
decode keeps the pc. -/
theorem pcStaysAlignedUnlessRet : Obligations.PcStaysAlignedUnlessRet := by
  intro s t hpc h hret
  obtain ⟨-, ⟨i, hf, hx⟩ | ⟨c, -, rfl⟩⟩ := step_next_cases h
  · have hi : i ≠ .ret := by
      rintro rfl
      exact hret hf
    exact exec_pc_aligned (s := s.countCycle) hpc (wf_of_fetchDecode hf) hi hx
  · exact hpc

/-- Settles O47: with offset 0 both ways of the branch end at `pc + 4`. -/
theorem beqBranchesOnEqual : Obligations.BeqBranchesOnEqual := by
  refine ⟨fun s boff => exec_beq_onlyJumps boff s, fun s => ?_, rfl, rfl⟩
  have hzero : (s.pc + 4) + 0 = s.pc + 4 := BitVec.add_zero _
  simpa only [hzero, ite_self] using exec_beq_onlyJumps 0 s

/-- Settles O48: each form of `cmp` ends in `compareAndAdvance` of its two operands. -/
theorem bgtBranchesOnGreater : Obligations.BgtBranchesOnGreater := by
  refine ⟨fun s boff => exec_bgt_onlyJumps boff s, fun s t rs1 rs2 boff h => exec_bgt_onlyJumps_of_compare boff rfl h,
    fun s t rs1 imm immx boff h => ?_, rfl⟩
  obtain ⟨hx, rfl⟩ | ⟨hx, rfl⟩ | ⟨hx, rfl⟩ := h <;>
    exact exec_bgt_onlyJumps_of_compare boff rfl hx

/-- Settles O49: the offset -4 takes `pc + 4` back to `pc`. -/
theorem branchAlwaysJumps : Obligations.BranchAlwaysJumps := by
  refine ⟨fun s boff => exec_b_onlyJumps boff s, rfl, fun s => ?_, rfl, rfl, rfl⟩
  have hself : (s.pc + 4) + 0xFFFFFFFC = s.pc := by bv_omega
  simpa only [hself] using exec_b_onlyJumps 0xFFFFFFFC s

/-- Settles O50: link and target are both made of the old pc, and the link is the one register written. -/
theorem callLinksAndJumps : Obligations.CallLinksAndJumps := by
  refine ⟨fun s boff => ⟨_, rfl, ⟨?_, fun r hr => ?_⟩, fun _ => rfl, ⟨rfl, rfl, rfl, rfl⟩, rfl⟩, rfl⟩
  · exact s.writeReg_readReg_self 15 (s.pc + 4)
  · exact s.writeReg_readReg_of_ne (s.pc + 4) hr

/-- Settles O51: `ret` leaves the core running with `x[15]` in the pc, and the next fetch checks it (`step_of_fetch_fault`). -/
theorem retJumpsToTheLinkRegister : Obligations.RetJumpsToTheLinkRegister := by
  refine ⟨exec_ret_onlyJumps, fun s t hs h => ?_, exec_ret_onlyJumps State.reset, rfl⟩
  cases h
  refine ⟨fun hunaligned => ?_, fun haligned hbound => ?_⟩
  · exact step_of_fetch_fault hs ((checkAccess_eq_some_iff _ _ _ _).mpr (.inl ⟨hunaligned, rfl⟩))
  · exact step_of_fetch_fault hs ((checkAccess_eq_some_iff _ _ _ _).mpr (.inr ⟨haligned, hbound, rfl⟩))

end

section
/-! PROOFS. The loads and stores (spec/44_load_store.md R115 to R117): what a data access does, said once for any
instruction that ends in `loadWord` or `storeWord`, the reserved words of opcodes 14 and 15, a read of the word just
stored, then the statements O52 and O53. -/

namespace Sys2Proof.Machine

/-! ### The fault of a data access (R33, R34, R165) -/

theorem takesFault_of_exec {i : Instr} {s : State} {c : FaultCause} (hx : exec i s = .next (s.takeFault c)) :
    TakesFault i s c :=
  ⟨_, hx, s.takeFault_readReg c, fun _ => rfl, rfl, rfl, rfl, rfl, rfl⟩

/-- An instruction that takes whatever fault its access check answers is Faulted by an unaligned address, and by an aligned
one whose word ends beyond the memory. -/
theorem takesFault_of_checkAccess {i : Instr} {s : State} {k : AccessKind} {ea : Word}
    (hx : ∀ c, checkAccess k ea s.memSize = some c → exec i s = .next (s.takeFault c)) :
    (ea.toNat % 4 ≠ 0 → TakesFault i s (.memUnaligned k ea)) ∧
    (ea.toNat % 4 = 0 → s.memSize < ea.toNat + 4 → TakesFault i s (.memOutOfBounds k ea)) := by
  refine ⟨fun hunaligned => takesFault_of_exec (hx _ ?_), fun haligned hbound => takesFault_of_exec (hx _ ?_)⟩
  · exact (checkAccess_eq_some_iff ..).mpr (.inl ⟨hunaligned, rfl⟩)
  · exact (checkAccess_eq_some_iff ..).mpr (.inr ⟨haligned, hbound, rfl⟩)

/-! ### Loads and stores, by the effective address (R115 to R117) -/

theorem loadsFrom_of_exec {i : Instr} {s : State} {rd : Reg} {ea : Word} (hx : exec i s = loadWord rd ea s) :
    LoadsFrom i s rd ea := by
  refine ⟨fun haligned hbound => ?_, takesFault_of_checkAccess fun c hc => hx.trans (loadWord_of_fault hc)⟩
  have hallowed : checkAccess .load ea s.memSize = none := (checkAccess_eq_none_iff ..).mpr ⟨haligned, hbound⟩
  exact writesReg_of_exec (hx.trans (loadWord_of_allowed hallowed))

/-- Canonical memory is what makes the four bytes read back as they were stored. -/
theorem storesTo_of_exec {i : Instr} {s : State} {ea v : Word} (hm : s.mem.wf) (hx : exec i s = storeWord ea v s) :
    StoresTo i s ea v := by
  refine ⟨fun haligned hbound => ?_, takesFault_of_checkAccess fun c hc => hx.trans (storeWord_of_fault hc)⟩
  have hallowed : checkAccess .store ea s.memSize = none := (checkAccess_eq_none_iff ..).mpr ⟨haligned, hbound⟩
  exact ⟨_, hx.trans (storeWord_of_allowed hallowed), fun _ => rfl, ⟨rfl, rfl, rfl, rfl⟩, rfl,
    fun _ hk => Memory.read_writeWord_byte hm ea.toNat v hk, fun _ ha => Memory.read_writeWord_outside s.mem v ha⟩

/-- The check of an access asks the same of every kind, so a word that could be stored can be fetched or loaded. -/
theorem memRead_of_memWrite {s t : State} {ea v : Word} (k : AccessKind) (hm : s.mem.wf) (h : s.memWrite ea v = .ok t) :
    t.memRead k ea = .ok v := by
  obtain ⟨hallowed, rfl⟩ := (s.memWrite_eq_ok_iff t ea v).mp h
  have hread : checkAccess k ea s.memSize = none :=
    (checkAccess_eq_none_iff ..).mpr ((checkAccess_eq_none_iff ..).mp hallowed)
  exact (State.memRead_eq_ok_iff ..).mpr ⟨hread, (Memory.readWord_writeWord_self hm ea.toNat v).symm⟩

/-! ### The reserved words of `ld` and `st` (R62) -/

theorem decode_eq_reserved_of_dataOpcode {w : Word} (hop : fieldOpcode w = 14 ∨ fieldOpcode w = 15)
    (h : fieldI w = false ∨ fieldModifier w = 3) : decode w = .reserved w := by
  have hdata : (fieldOpcode w).toNat = 14 ∨ (fieldOpcode w).toNat = 15 :=
    hop.imp (congrArg BitVec.toNat) (congrArg BitVec.toNat)
  refine (decode_eq_reserved_iff w).mpr ?_
  cases hI : fieldI w with
  | false => exact .inr ⟨hdata, hI⟩
  | true =>
    have hmod : fieldModifier w = 3 := h.resolve_left (by simp [hI])
    exact .inl ⟨.inr hdata, hI, congrArg BitVec.toNat hmod⟩

end Sys2Proof.Machine

/-! ### The obligations -/

open Sys2Proof Sys2Proof.Machine

/-- Settles O52: each form of `ld` ends in `loadWord` at its effective address. -/
theorem loadsReadTheAddressedWord : Obligations.LoadsReadTheAddressedWord := by
  refine ⟨fun s rd rs1 imm => ⟨?_, ?_, ?_⟩, fun w hop => ?_, fun w hop => ?_, rfl⟩
  · exact loadsFrom_of_exec rfl
  · exact loadsFrom_of_exec rfl
  · exact loadsFrom_of_exec rfl
  · exact decode_eq_reserved_of_dataOpcode (.inl hop)
  · exact decode_eq_reserved_of_dataOpcode (.inr hop)

/-- Settles O53: each form of `st` ends in `storeWord` of `x[rd]` at its effective address, and a fetch there reads the
stored word (`memRead_of_memWrite`). -/
theorem storesWriteTheAddressedWord : Obligations.StoresWriteTheAddressedWord := by
  refine ⟨fun s rd rs1 imm hm => ⟨?_, ?_, ?_⟩, fun w hop => ?_, fun s t ea v hm => ?_, rfl⟩
  · exact storesTo_of_exec hm rfl
  · exact storesTo_of_exec hm rfl
  · exact storesTo_of_exec hm rfl
  · exact decode_eq_reserved_of_dataOpcode (.inr hop)
  · exact memRead_of_memWrite .fetch hm

end

section
/-! PROOFS. `nop` and `hlt` (spec/45_halt_nop.md R120, R121): the words of their opcodes, the cycle of a fetched
instruction, the clock of a core that is not running, then the statements O54 and O55. -/

namespace Sys2Proof.Machine

/-! ### The words of `nop` and `hlt` -/

theorem decode_eq_nop_of_opcode {w : Word} (h : (fieldOpcode w).toNat = 13) : decode w = .instr .nop := by
  simp only [decode, h]

theorem decode_eq_hlt_of_opcode {w : Word} (h : (fieldOpcode w).toNat = 31) : decode w = .instr .hlt := by
  simp only [decode, h]

/-! ### The cycle of a fetched instruction (R140) -/

theorem step_of_fetchDecode_ok {s : State} {i : Instr} (hs : s.status = .running) (hf : s.fetchDecode = .ok i) :
    step s = exec i s.countCycle := by
  rw [step_of_running hs, hf]

theorem exec_nop (s : State) : exec .nop s = .next s.advance := rfl

theorem exec_hlt (s : State) : exec .hlt s = .next s.halt := rfl

/-! ### The clock of a core that is not running (R139, R142) -/

theorem State.halt_status_ne_running (s : State) : s.halt.status ≠ .running := by
  rw [State.halt_status]
  exact Status.noConfusion

/-- Every write enable of the control unit is 0 unless it is running (R139, R142). -/
theorem controlUnit_enables_of_not_running {status : Status} (h : status ≠ .running) (flags : Flags) (f : FetchOut)
    (d : DecoderOut) (rd1 : Word) (fault : Option FaultCause) :
    (controlUnit status flags f d rd1 fault).pcWe = false ∧ (controlUnit status flags f d rd1 fault).we = false ∧
    (controlUnit status flags f d rd1 fault).dmemWe = false ∧ (controlUnit status flags f d rd1 fault).flagsWe = false := by
  simp [controlUnit, h]

theorem nextStatus_of_not_running {status : Status} (h : status ≠ .running) (fault : Option FaultCause) (isHlt : Bool) :
    nextStatus status fault isHlt = status := if_neg h

theorem clockEdge_of_not_running {s : State} (h : s.status ≠ .running) : clockEdge s = s := by
  simp only [clockEdge, controlUnit_enables_of_not_running h, nextStatus_of_not_running h, if_neg h,
    Bool.false_eq_true, if_false]

theorem clock_false_of_not_running {s : State} (h : s.status ≠ .running) : clock false s = s :=
  clockEdge_of_not_running h

end Sys2Proof.Machine

/-! ### The obligations -/

open Sys2Proof Sys2Proof.Machine

/-- Settles O54: `nop` is the jump to `pc + 4`, and bits 31:27 are 13 in the whole range of words. -/
theorem nopOnlyAdvances : Obligations.NopOnlyAdvances := by
  refine ⟨fun s => onlyJumps_of_exec (exec_nop s), fun w hlo hhi => decode_eq_nop_of_opcode ?_, fun s hs hf => ?_⟩
  · rw [fieldOpcode_toNat]
    omega
  · rw [step_of_fetchDecode_ok hs hf, exec_nop]
    rfl

/-- Settles O55: `hlt` ends in `State.halt`, which no step and no clock edge leaves; bits 31:27 are 31 from 0xF8000000 on,
up to the last word. -/
theorem haltStopsTheCore : Obligations.HaltStopsTheCore := by
  refine ⟨fun s => ⟨s.halt, exec_hlt s, s.halt_readReg, fun _ => rfl, s.halt_flags, s.halt_pc, s.halt_memSize,
    s.halt_cycles, s.halt_status, ?_, ?_⟩, fun s hs hf => ?_, fun w hlo => decode_eq_hlt_of_opcode ?_⟩
  · exact not_step_next_of_not_running s.halt_status_ne_running
  · exact clock_false_of_not_running s.halt_status_ne_running
  · rw [step_of_fetchDecode_ok hs hf, exec_hlt]
    rfl
  · have hlast := w.isLt
    rw [fieldOpcode_toNat]
    omega

end

section
/-! PROOFS. The end of a faulting cycle and the terminal states (spec/50_core_units.md R141, R142, spec/60_exceptions.md
R165): when a cycle leaves the core Faulted, then the statements O11 and O13. -/

namespace Sys2Proof.Machine

/-! ### A cycle that ends in Faulted -/

theorem status_takeFault_eq_faulted_iff (s : State) (d c : FaultCause) :
    (s.takeFault d).status = .faulted c ↔ d = c := by
  rw [State.takeFault_status, Status.faulted.injEq]

/-- An instruction leaves a running core Faulted only by taking that fault on the state it started from: an access that
is not made writes nothing, and no other effect touches the status. -/
theorem exec_eq_takeFault_of_faulted {i : Instr} {s t : State} {c : FaultCause} (h : exec i s = .next t)
    (hs : s.status = .running) (ht : t.status = .faulted c) : t = s.takeFault c := by
  cases exec_next_effect h with
  | loadFault ea d | storeFault ea d => rw [(status_takeFault_eq_faulted_iff s d c).mp ht]
  | halted => exact absurd ht Status.noConfusion
  | _ => exact absurd ht (not_faulted_of_running hs c)

/-- A step ends in Faulted only by taking that fault once the cycle is counted, in whichever phase it was raised (R141). -/
theorem step_eq_takeFault_of_faulted {s t : State} {c : FaultCause} (h : step s = .next t)
    (ht : t.status = .faulted c) : t = s.countCycle.takeFault c := by
  obtain ⟨hs, ⟨i, -, hx⟩ | ⟨d, -, rfl⟩⟩ := step_next_cases h
  · exact exec_eq_takeFault_of_faulted hx (s.countCycle_status.trans hs) ht
  · rw [(status_takeFault_eq_faulted_iff s.countCycle d c).mp ht]

/-! ### The clock with reset high (R190) -/

theorem clock_true (s : State) : clock true s = State.resetSized s.memSize := rfl

end Sys2Proof.Machine

/-! ### The obligations -/

open Sys2Proof Sys2Proof.Machine

/-- Settles O11: the counted cycle and the taken fault write the count and the status, and no other field. -/
theorem faultsArePrecise : Obligations.FaultsArePrecise := by
  intro s t c h ht
  rw [step_eq_takeFault_of_faulted h ht]
  rfl

/-- Settles O13: a step needs a running core, and so does every write enable of a clock edge without reset. -/
theorem terminalStatesHold : Obligations.TerminalStatesHold := fun s hs =>
  ⟨not_step_next_of_not_running hs, clock_false_of_not_running hs, clock_true s⟩

end

section
/-! PROOFS. The one fault of a cycle (spec/60_exceptions.md R167): the access check as a case distinction, what the data
access of an instruction does to the status, what a fault of fetch or decode leaves, then the statement O12. -/

namespace Sys2Proof.Machine

/-! ### Unaligned before out of bounds (R35) -/

/-- The check of R36 with alignment as divisibility of the address. -/
theorem checkAccess_eq_ite (k : AccessKind) (addr : Word) (n : Nat) :
    checkAccess k addr n =
      if addr.toNat % 4 ≠ 0 then some (.memUnaligned k addr)
      else if addr.toNat + 4 > n then some (.memOutOfBounds k addr) else none := by
  simp only [checkAccess, ne_eq, lowBits_eq_zero_iff]

/-! ### The data access of an instruction (R115 to R117, R138) -/

theorem dataAccess_countCycle (i : Instr) (s : State) : dataAccess i s.countCycle = dataAccess i s := rfl

/-- The instructions with a data access are those that end in `loadWord` or `storeWord` at its address. -/
theorem exec_of_dataAccess {i : Instr} {s : State} {k : AccessKind} {ea : Word} (h : dataAccess i s = some (k, ea)) :
    (k = .load ∧ ∃ rd, exec i s = loadWord rd ea s) ∨ (k = .store ∧ ∃ v, exec i s = storeWord ea v s) := by
  cases i with
  | ld rd | ldu rd | ldh rd =>
    cases h
    exact .inl ⟨rfl, rd, rfl⟩
  | st rd | stu rd | sth rd =>
    cases h
    exact .inr ⟨rfl, s.readReg rd, rfl⟩
  | _ => cases h

theorem instrClass_of_dataAccess_eq_none {i : Instr} {s : State} (h : dataAccess i s = none) :
    i.instrClass ≠ .load ∧ i.instrClass ≠ .store := by
  cases i with
  | ld | ldu | ldh | st | stu | sth => cases h
  | _ => exact ⟨InstrClass.noConfusion, InstrClass.noConfusion⟩

/-- The access check alone decides the status after a load or a store: its fault, or the status as it was. -/
theorem exec_status_of_dataAccess {i : Instr} {s t : State} {k : AccessKind} {ea : Word} (h : exec i s = .next t)
    (ha : dataAccess i s = some (k, ea)) : t.status = (checkAccess k ea s.memSize).elim s.status .faulted := by
  obtain ⟨rfl, rd, hx⟩ | ⟨rfl, v, hx⟩ := exec_of_dataAccess ha
  · obtain ⟨hc, hl⟩ | ⟨c, hc, hl⟩ := loadWord_cases rd ea s <;>
    · cases (hx.trans hl).symm.trans h
      rw [hc]
      rfl
  · obtain ⟨hc, hl⟩ | ⟨c, hc, hl⟩ := storeWord_cases ea v s <;>
    · cases (hx.trans hl).symm.trans h
      rw [hc]
      rfl

/-- No instruction but a load or a store raises a fault (R167, phases 3 and 4). -/
theorem exec_not_faulted_of_no_dataAccess {i : Instr} {s t : State} (h : exec i s = .next t) (hs : s.status = .running)
    (ha : dataAccess i s = none) (c : FaultCause) : t.status ≠ .faulted c := by
  obtain ⟨hload, hstore⟩ := instrClass_of_dataAccess_eq_none ha
  cases exec_next_effect h with
  | loadFault ea d hd hc => exact absurd hc hload
  | storeFault ea d hd hc => exact absurd hc hstore
  | halted => exact Status.noConfusion
  | _ => exact not_faulted_of_running hs c

/-! ### A fault of fetch or decode ends the cycle (R140, R167) -/

theorem step_status_of_fetchDecode_error {s t : State} {c : FaultCause} (h : step s = .next t)
    (hf : s.fetchDecode = .error c) : t.status = .faulted c := by
  obtain ⟨-, ⟨i, hi, -⟩ | ⟨d, hd, rfl⟩⟩ := step_next_cases h
  · cases hi.symm.trans hf
  · cases hd.symm.trans hf
    rfl

end Sys2Proof.Machine

/-! ### The obligation -/

open Sys2Proof Sys2Proof.Machine

/-- Settles O12, phase by phase: each later phase is reached only when the earlier ones answered no fault, and its own
check then names the fault that the cycle records. -/
theorem faultPriorityFollowsThePhases : Obligations.FaultPriorityFollowsThePhases := by
  intro s hs
  obtain ⟨t, ht⟩ := exists_step_of_running hs
  have hfault : ∀ {c}, s.fetchDecode = .error c → t.status = .faulted c := step_status_of_fetchDecode_error ht
  simp only [State.fetchDecode_eq_error_iff] at hfault
  refine ⟨t, ht, ?_⟩
  dsimp only
  split_ifs with hunaligned hbound
  · exact hfault (.inl (by rw [checkAccess_eq_ite, if_pos hunaligned]))
  · exact hfault (.inl (by rw [checkAccess_eq_ite, if_neg hunaligned, if_pos hbound]))
  have hfetch : s.fetchable = true := s.fetchable_iff.mpr ⟨not_not.mp hunaligned, Nat.le_of_not_lt hbound⟩
  cases hd : decode (s.mem.readWord s.pc.toNat) with
  | unknownOpcode v =>
    obtain rfl := decode_unknownOpcode_eq hd
    exact hfault (.inr ⟨hfetch, .inl ⟨rfl, hd⟩⟩)
  | reserved v =>
    obtain rfl := decode_reserved_eq hd
    exact hfault (.inr ⟨hfetch, .inr ⟨rfl, hd⟩⟩)
  | instr i =>
    have hx : exec i s.countCycle = .next t :=
      (step_of_fetchDecode_ok hs ((s.fetchDecode_eq_ok_iff i).mpr ⟨hfetch, hd⟩)).symm.trans ht
    dsimp only
    rw [← dataAccess_countCycle]
    cases ha : dataAccess i s.countCycle with
    | none => exact exec_not_faulted_of_no_dataAccess hx hs ha
    | some access =>
      obtain ⟨k, ea⟩ := access
      rw [exec_status_of_dataAccess hx ha, State.countCycle_memSize, State.countCycle_status, hs, checkAccess_eq_ite]
      dsimp only
      split_ifs <;> rfl

end

section
/-! PROOFS. Reset (spec/70_reset_and_hazards.md R190) and the bounded run (R192, R193): the values after reset, the
equations of `run`, and what a run of the host's loop ends with; then the statements O18 and O31. -/

namespace Sys2Proof.Machine

/-! ### The state after reset (R23, R190) -/

theorem State.resetSized_readReg (n : Nat) (r : Reg) : (State.resetSized n).readReg r = 0 := by
  simp [State.readReg, State.resetSized]

theorem State.resetSized_mem_read (n a : Nat) : (State.resetSized n).mem.read a = 0 := Memory.read_nil a

/-! ### The reason the host reads off a status (R194) -/

theorem stopReason_eq_cycleLimitExceeded_iff (status : Status) :
    stopReason status = .cycleLimitExceeded ↔ status = .running := by
  cases status <;> simp [stopReason]

theorem stopReason_eq_halted_iff (status : Status) : stopReason status = .halted ↔ status = .halted := by
  cases status <;> simp [stopReason]

theorem stopReason_eq_faulted_iff (status : Status) (c : FaultCause) :
    stopReason status = .faulted c ↔ status = .faulted c := by
  cases status <;> simp [stopReason]

/-! ### The equations of a bounded run (R193) -/

theorem clockFor_of_not_running {s : State} (h : s.status ≠ .running) (k : Nat) : clockFor k s = reportOf s := by
  cases k with
  | zero => rfl
  | succ k =>
    rw [clockFor]
    split
    next t ht => exact absurd ht (not_step_next_of_not_running h t)
    all_goals rfl

theorem clockFor_succ_of_step {s t : State} (h : step s = .next t) (k : Nat) : clockFor (k + 1) s = clockFor k t := by
  rw [clockFor, h]

theorem run_of_not_running {s : State} (h : s.status ≠ .running) (m : Nat) : run m s = reportOf s :=
  clockFor_of_not_running h _

theorem run_of_bound_le {m : Nat} {s : State} (h : m ≤ s.cycles) : run m s = reportOf s := by
  rw [run, Nat.sub_eq_zero_of_le h, clockFor]

theorem run_of_step {m : Nat} {s t : State} (hlt : s.cycles < m) (h : step s = .next t) : run m s = run m t := by
  have hk : m - s.cycles = (m - t.cycles) + 1 := by
    rw [step_cycles h]
    omega
  rw [run, hk, clockFor_succ_of_step h, run]

theorem reportOf_of_running {s : State} (h : s.status = .running) :
    reportOf s = ⟨s, s.cycles, .cycleLimitExceeded⟩ := by
  rw [reportOf, h, stopReason]

/-- `run` answers a report that the host's loop ends with: each cycle lowers `m - s.cycles` by one (R19). -/
theorem hostRun_run (m : Nat) (s : State) : HostRun (some m) s (run m s) := by
  induction hk : m - s.cycles generalizing s with
  | zero =>
    have hle : m ≤ s.cycles := Nat.sub_eq_zero_iff_le.mp hk
    rw [run_of_bound_le hle]
    by_cases hs : s.status = .running
    · rw [reportOf_of_running hs]
      exact .limit s m hs rfl hle
    · exact .terminal s hs
  | succ k ih =>
    have hlt : s.cycles < m := by omega
    by_cases hs : s.status = .running
    · obtain ⟨t, ht⟩ := exists_step_of_running hs
      have hkt : m - t.cycles = k := by
        rw [step_cycles ht]
        omega
      rw [run_of_step hlt ht]
      exact .cycle s t _ hs (fun n hn => Option.some.inj hn ▸ hlt) ht (ih t hkt)
    · rw [run_of_not_running hs]
      exact .terminal s hs

/-! ### What a run of the host's loop ends with (R192 to R194) -/

theorem Reaches.head {s t u : State} (h : step s = .next t) (htu : Reaches t u) : Reaches s u := by
  induction htu with
  | refl => exact .tail s s t (.refl s) h
  | tail v w _ hvw ih => exact .tail s v w ih hvw

theorem HostRun.reaches {bound : Option Nat} {s : State} {r : RunReport} (h : HostRun bound s r) :
    Reaches s r.state := by
  induction h with
  | terminal s | limit s => exact .refl s
  | cycle s t r _ _ ht _ ih => exact .head ht ih

theorem HostRun.eq_reportOf {bound : Option Nat} {s : State} {r : RunReport} (h : HostRun bound s r) :
    r = reportOf r.state := by
  induction h with
  | terminal s => rfl
  | limit s n hs => exact (reportOf_of_running hs).symm
  | cycle s t r _ _ _ _ ih => exact ih

/-- The bound is tested before every step, so the count passes it only where the run began above it. -/
theorem HostRun.cycles_le {m : Nat} {s : State} {r : RunReport} (h : HostRun (some m) s r) :
    r.cycles ≤ max m s.cycles := by
  induction h with
  | terminal s | limit s => exact Nat.le_max_right m s.cycles
  | cycle s t r _ hlt ht _ ih =>
    have hsm : s.cycles < m := hlt m rfl
    rw [step_cycles ht] at ih
    omega

theorem HostRun.le_cycles_of_limit {m : Nat} {s : State} {r : RunReport} (h : HostRun (some m) s r)
    (hr : r.reason = .cycleLimitExceeded) : m ≤ r.cycles := by
  induction h with
  | terminal s hs => exact absurd ((stopReason_eq_cycleLimitExceeded_iff s.status).mp hr) hs
  | limit s n _ hn hle => exact Option.some.inj hn ▸ hle
  | cycle s t r _ _ _ _ ih => exact ih hr

theorem run_reason (m : Nat) (s : State) : (run m s).reason = stopReason (run m s).state.status :=
  congrArg RunReport.reason (hostRun_run m s).eq_reportOf

end Sys2Proof.Machine

/-! ### The obligations -/

open Sys2Proof Sys2Proof.Machine

/-- Settles O18: a clock edge with reset high answers `State.resetSized` of the memory's size, which is all that it takes
from the state before; from a terminal state nothing else leads out. -/
theorem resetPutsEveryElementAtItsValue : Obligations.ResetPutsEveryElementAtItsValue := by
  refine ⟨fun s => ?_, fun s s' hsize => ?_, fun s hs => ⟨not_step_next_of_not_running hs, ?_⟩⟩
  · rw [clock_true]
    exact ⟨State.resetSized_readReg _, rfl, rfl, rfl, rfl, State.resetSized_mem_read _⟩
  · rw [clock_true, clock_true, hsize]
  · rw [clock_false_of_not_running hs]

/-- Settles O31: the report of `run` is one of the host's loop, by whose rules the reached state, the reason and the count
are found; the clauses at and under the bound are the equations of `run`. -/
theorem runRespectsTheCycleBound : Obligations.RunRespectsTheCycleBound := by
  intro m s
  have hrun : HostRun (some m) s (run m s) := hostRun_run m s
  rw [run_reason]
  refine ⟨hrun.reaches, congrArg RunReport.cycles hrun.eq_reportOf, stopReason_eq_cycleLimitExceeded_iff _,
    stopReason_eq_halted_iff _, stopReason_eq_faulted_iff _, fun hle => ?_, hrun.cycles_le, fun hle hr => ?_,
    fun hs hlt => ?_⟩
  · rw [run_of_bound_le hle, reportOf]
  · have hmax : max m s.cycles = m := max_eq_left hle
    exact Nat.le_antisymm (hrun.cycles_le.trans hmax.le) (hrun.le_cycles_of_limit ((run_reason m s).trans hr))
  · obtain ⟨t, ht⟩ := exists_step_of_running hs
    exact ⟨t, ht, run_of_step hlt ht⟩

end

section
/-! PROOFS. The round trip between instructions and words (spec/30_encoding.md R63, R66), the spec's own words and the
immediate unit (R57): the statements O1, O2, O6 and O7. -/

namespace Sys2Proof

/-! ### Words put together from parts -/

theorem toNat_append_eq_add {m n : Nat} (x : BitVec m) (y : BitVec n) : (x ++ y).toNat = x.toNat * 2 ^ n + y.toNat := by
  rw [BitVec.toNat_append, ← Nat.shiftLeft_add_eq_or_of_lt y.isLt, Nat.shiftLeft_eq]

/-! ### Canonical words (R63) -/

theorem canonical_iff (w : Word) : canonical w = true ↔ w &&& ignoredBits w = 0 := beq_iff_eq

/-- A word is its bits inside `a` and its bits outside, so clearing those inside loses nothing exactly when there are none. -/
theorem and_not_eq_self_iff (w a : Word) : w &&& ~~~a = w ↔ w &&& a = 0 := by
  refine ⟨fun h => and_eq_zero_of_eq_and_not h.symm, fun h => ?_⟩
  calc w &&& ~~~a
    _ = w &&& a ||| w &&& ~~~a := by rw [h, BitVec.ofNat_eq_ofNat, BitVec.zero_or]
    _ = w := by rw [← BitVec.and_or_distrib_left, BitVec.or_not_self, BitVec.and_allOnes]

theorem encode_eq_iff_canonical {w : Word} {i : Instr} (h : decode w = .instr i) : encode i = w ↔ canonical w = true := by
  obtain ⟨-, -, -, henc⟩ := decode_eq_instr h
  rw [henc, canonical_iff, and_not_eq_self_iff]

end Sys2Proof

/-! ### The obligations -/

open Sys2Proof Sys2Proof.Machine

/-- Settles O1: the fields of the encoding read back format by format (`decode_encode`), and a word that encodes what it
decodes to has no ignored bit (`encode_eq_iff_canonical`). -/
theorem decodeEncodeRoundTrip : Obligations.DecodeEncodeRoundTrip := fun _ hwf =>
  ⟨decode_encode hwf, (encode_eq_iff_canonical (decode_encode hwf)).mp rfl⟩

/-- Settles O2: what a word decodes to is well-formed and encodes to the word with its ignored bits cleared
(`decode_eq_instr`), so the first round trip brings it back. -/
theorem encodeReturnsExactlyTheCanonicalWords : Obligations.EncodeReturnsExactlyTheCanonicalWords := by
  intro w i h
  obtain ⟨-, -, hwf, -⟩ := decode_eq_instr h
  exact ⟨hwf, encode_eq_iff_canonical h, (decode_encode hwf).trans h.symm⟩

/-- Settles O6: the decoder evaluates on each of the thirteen words. -/
theorem specWordsDecodeAsWritten : Obligations.SpecWordsDecodeAsWritten :=
  ⟨rfl, rfl, rfl, rfl, rfl, rfl, rfl, rfl, rfl, rfl, rfl, rfl, rfl⟩

/-- Settles O7: sign extension keeps the signed value, zero extension the unsigned one, and appending 16 zeros multiplies
it by 2^16. -/
theorem immediatesExpandByTheModifier : Obligations.ImmediatesExpandByTheModifier := by
  refine fun imm => ⟨⟨_, rfl, ?_⟩, ⟨_, rfl, ?_⟩, ⟨_, rfl, ?_⟩, rfl⟩
  · exact BitVec.toInt_signExtend_of_le (by decide)
  · exact BitVec.toNat_setWidth_of_le (by decide)
  · simp only [immHigh, toNat_append_eq_add, BitVec.toNat_zero, Nat.add_zero, Nat.reducePow]

end

section
/-! PROOFS. The six units against the step function (spec/50_core_units.md R130 to R140): the lines between the units, the
first fault of the phases, what an edge latches with a fault and without one, the edge of each row of the control table,
then the statement O15. -/

namespace Sys2Proof.Machine

/-! ### The lines between the units -/

/-- The word on the fetch port (R133). -/
def instLine (s : State) : Word := s.mem.readWord s.pc.toNat

/-- The outputs of `decoder` for it (R134). -/
def decoderLines (s : State) : DecoderOut := decoderUnit (instLine s)

/-- The second input of `alu` (R137): the expanded immediate, or the second register port. -/
def operand2Line (s : State) : Word :=
  if (decoderLines s).isImm then (decoderLines s).immx.getD 0 else s.readReg (readAddr2 (decoderLines s))

/-- The outputs of `alu` (R137). -/
def aluLines (s : State) : AluOut :=
  aluUnit (decoderLines s).controls.aluOp (s.readReg (readAddr1 (decoderLines s))) (operand2Line s)

/-- The result of `alu`, which is also the address on the data port (R138). -/
def aluResultLine (s : State) : Word := (aluLines s).result.getD 0

/-- The first fault of the cycle (R139). -/
def faultLine (s : State) : Option FaultCause :=
  firstFault (fetchUnit s.pc s.mem s.memSize) (decoderLines s)
    (memFaultOf (decoderLines s) (aluResultLine s) s.memSize) (aluResultLine s)

/-- The word on the write port of `register_file` (R136). -/
def writeBackLine (s : State) : Word :=
  if (decoderLines s).controls.isCall then s.pcPlus4
  else if (decoderLines s).controls.isLd then s.mem.readWord (aluResultLine s).toNat else aluResultLine s

/-- The outputs of `control_unit` (R139). -/
def controlLines (s : State) : ControlOut :=
  controlUnit s.status s.flags (fetchUnit s.pc s.mem s.memSize) (decoderLines s)
    (s.readReg (readAddr1 (decoderLines s))) (faultLine s)

/-- The clock edge, said with the names of the lines. -/
theorem clockEdge_eq_lines (s : State) :
    clockEdge s =
      { regs := if (controlLines s).we then (s.writeReg (writeAddr (decoderLines s)) (writeBackLine s)).regs else s.regs
        pc := if (controlLines s).pcWe then (controlLines s).nextPc else s.pc
        flags := if (controlLines s).flagsWe then ⟨(aluLines s).eq, (aluLines s).gt⟩ else s.flags
        status := nextStatus s.status (faultLine s) (decoderLines s).controls.isHlt
        mem := if (controlLines s).dmemWe then
            s.mem.writeWord (aluResultLine s).toNat (s.readReg (readAddr2 (decoderLines s)))
          else s.mem
        memSize := s.memSize
        cycles := if s.status = .running then s.cycles + 1 else s.cycles } := rfl

/-! ### What an edge latches (R131, R139) -/

/-- Every write enable is 0 in a cycle with a fault, and the status records it (R141). -/
theorem clockEdge_of_fault {s : State} {c : FaultCause} (hs : s.status = .running) (hf : faultLine s = some c) :
    clockEdge s = s.countCycle.takeFault c := by
  simp [clockEdge_eq_lines, controlLines, controlUnit, nextStatus, hf, hs, State.takeFault, State.countCycle]

/-- Where a cycle without a fault goes on, by the control signals (R139). -/
def nextPcLine (s : State) (c : Controls) : Word :=
  if c.isUbr || (c.isBeq && s.flags.e) || (c.isBgt && s.flags.gt) then
    (if c.isRet then s.readReg (readAddr1 (decoderLines s)) else branchTarget s (boffOf (fieldOff27 (instLine s))))
  else s.pcPlus4

/-- Without a fault the write enables are the control signals. -/
theorem controlLines_of_no_fault {s : State} (hs : s.status = .running) (hf : faultLine s = none) :
    controlLines s =
      { fault := none
        nextPc := nextPcLine s (decoderLines s).controls
        pcWe := !(decoderLines s).controls.isHlt
        we := (decoderLines s).controls.wb
        dmemWe := (decoderLines s).controls.isSt
        flagsWe := (decoderLines s).controls.isCmp } := by
  rw [controlLines, hs, hf]
  rfl

/-- What an edge latches in a cycle without a fault, by the control signals. -/
def committed (s : State) (c : Controls) : State where
  regs := if c.wb then (s.writeReg (writeAddr (decoderLines s)) (writeBackLine s)).regs else s.regs
  pc := if c.isHlt then s.pc else nextPcLine s c
  flags := if c.isCmp then ⟨(aluLines s).eq, (aluLines s).gt⟩ else s.flags
  status := if c.isHlt then .halted else s.status
  mem := if c.isSt then s.mem.writeWord (aluResultLine s).toNat (s.readReg (readAddr2 (decoderLines s))) else s.mem
  memSize := s.memSize
  cycles := s.cycles + 1

theorem clockEdge_of_no_fault {s : State} (hs : s.status = .running) (hf : faultLine s = none) :
    clockEdge s = committed s (decoderLines s).controls := by
  rw [clockEdge_eq_lines, controlLines_of_no_fault hs hf, committed, hf, hs]
  cases (decoderLines s).controls.isHlt <;> rfl

/-! ### The first fault (R139, R167) -/

/-- The fault a port's signal stands for, for an access of a kind at an address. -/
def PortFault.cause (kind : AccessKind) (addr : Word) : PortFault → Option FaultCause
  | .none => Option.none
  | .unaligned => some (.memUnaligned kind addr)
  | .oob => some (.memOutOfBounds kind addr)

/-- The fault the decoder's signal stands for. -/
def DecodeErr.cause (inst : Word) : DecodeErr → Option FaultCause
  | .none => Option.none
  | .unknownOpcode => some (.decodeUnknownOpcode inst)
  | .reserved => some (.decodeReserved inst)

theorem firstFault_eq_or (f : FetchOut) (d : DecoderOut) (m : PortFault) (addr : Word) :
    firstFault f d m addr =
      (f.fetchFault.cause .fetch f.pcCur).or
        ((d.decodeErr.cause f.inst).or (m.cause (if d.controls.isLd then .load else .store) addr)) := by
  unfold firstFault
  cases f.fetchFault with
  | unaligned | oob => rfl
  | none =>
    cases d.decodeErr with
    | unknownOpcode | reserved => rfl
    | none => cases m <;> rfl

/-- A port's signal stands for the fault of its access check (R36). -/
theorem cause_portFault (kind : AccessKind) (addr : Word) (n : Nat) :
    (portFault addr n).cause kind addr = checkAccess kind addr n := by
  rw [checkAccess_eq_ite, portFault]
  split_ifs <;> rfl

theorem hasImmFormat_iff (w : Word) : hasImmFormat (fieldOpcode w) = true ↔ HasImmediateRow w := by
  simp [hasImmFormat, HasImmediateRow, or_assoc]

theorem decodeErrOf_of_unknownWord {w : Word} (h : UnknownWord w) : decodeErrOf w = .unknownOpcode := if_pos h

theorem decodeErrOf_of_reservedWord {w : Word} (h : ReservedWord w) : decodeErrOf w = .reserved := by
  have hu : ¬(21 ≤ (fieldOpcode w).toNat ∧ (fieldOpcode w).toNat ≤ 30) := not_unknownWord_of_reservedWord h
  rw [decodeErrOf, if_neg hu]
  obtain ⟨hrow, hI, hm⟩ | ⟨hop, hI⟩ := h
  · rw [if_pos (by simp [(hasImmFormat_iff w).mpr hrow, hI, hm])]
  · rw [if_neg (by simp [hI]), if_pos ⟨hop, hI⟩]

theorem decodeErrOf_of_instr {w : Word} {i : Instr} (h : decode w = .instr i) : decodeErrOf w = .none := by
  obtain ⟨hu, hr, -, -⟩ := decode_eq_instr h
  have hu : ¬(21 ≤ (fieldOpcode w).toNat ∧ (fieldOpcode w).toNat ≤ 30) := hu
  rw [decodeErrOf, if_neg hu, if_neg, if_neg]
  · exact fun hmem => hr (.inr hmem)
  · intro himm
    simp only [Bool.and_eq_true, hasImmFormat_iff, decide_eq_true_eq] at himm
    obtain ⟨⟨hrow, hI⟩, hm⟩ := himm
    exact hr (.inl ⟨hrow, hI, hm⟩)

/-- The control unit sees the fault of the fetch, else that of the decoder, else that of the data port. -/
theorem faultLine_eq_or (s : State) :
    faultLine s =
      (checkAccess .fetch s.pc s.memSize).or
        (((decodeErrOf (instLine s)).cause (instLine s)).or
          ((memFaultOf (decoderLines s) (aluResultLine s) s.memSize).cause
            (if (decoderLines s).controls.isLd then .load else .store) (aluResultLine s))) := by
  rw [← cause_portFault]
  exact firstFault_eq_or ..

theorem faultLine_of_fetchDecode_error {s : State} {c : FaultCause} (h : s.fetchDecode = .error c) :
    faultLine s = some c := by
  rw [faultLine_eq_or]
  obtain ha | ⟨hfetch, hd⟩ := (s.fetchDecode_eq_error_iff c).mp h
  · rw [ha, Option.some_or]
  · rw [Option.isNone_iff_eq_none.mp hfetch, Option.none_or]
    obtain ⟨rfl, hd⟩ | ⟨rfl, hd⟩ := hd
    · have herr : decodeErrOf (instLine s) = .unknownOpcode :=
        decodeErrOf_of_unknownWord ((decode_eq_unknownOpcode_iff _).mp hd)
      rw [herr]
      rfl
    · have herr : decodeErrOf (instLine s) = .reserved :=
        decodeErrOf_of_reservedWord ((decode_eq_reserved_iff _).mp hd)
      rw [herr]
      rfl

section Fetched

variable {s : State} {i : Instr} (hf : s.fetchDecode = .ok i)
include hf

theorem decode_instLine : decode (instLine s) = .instr i := ((s.fetchDecode_eq_ok_iff i).mp hf).2

theorem controls_of_fetchDecode_ok : (decoderLines s).controls = controlsOf (fieldOpcode (instLine s)) :=
  if_pos (decodeErrOf_of_instr (decode_instLine hf))

theorem faultLine_of_fetchDecode_ok :
    faultLine s =
      (memFaultOf (decoderLines s) (aluResultLine s) s.memSize).cause
        (if (decoderLines s).controls.isLd then .load else .store) (aluResultLine s) := by
  obtain ⟨hfetch, hd⟩ := (s.fetchDecode_eq_ok_iff i).mp hf
  rw [faultLine_eq_or, Option.isNone_iff_eq_none.mp hfetch, decodeErrOf_of_instr (decode_instLine hf)]
  rfl

theorem clockEdge_of_no_access (hs : s.status = .running) {c : Controls} (hc : (decoderLines s).controls = c)
    (hld : c.isLd = false) (hst : c.isSt = false) : clockEdge s = committed s c := by
  have hfault : faultLine s = none := by
    rw [faultLine_of_fetchDecode_ok hf, memFaultOf, hc, hld, hst]
    rfl
  rw [clockEdge_of_no_fault hs hfault, hc]

/-- With `isLd` or `isSt` the one fault left is that of the access to the ALU's result (R138). -/
theorem faultLine_of_access {c : Controls} (hc : (decoderLines s).controls = c) (hacc : (c.isLd || c.isSt) = true) :
    faultLine s = checkAccess (if c.isLd then .load else .store) (aluResultLine s) s.memSize := by
  rw [faultLine_of_fetchDecode_ok hf, memFaultOf, hc, if_pos hacc, cause_portFault]

end Fetched

/-! ### The operands -/

/-- The immediate of a word, expanded by its modifier; the reserved modifier counts as 0 (R57, R134). -/
def immLine (w : Word) : Word := (expandImm (fieldModifier w) (fieldImm16 w)).getD 0

theorem immLine_of_expandImm {w v : Word} (h : expandImm (fieldModifier w) (fieldImm16 w) = some v) : immLine w = v := by
  rw [immLine, h, Option.getD_some]

theorem expandImm_of_zero {m : BitVec 2} {imm : Imm16} (hm : m.toNat = 0) : expandImm m imm = some (immSigned imm) := by
  simp only [expandImm, hm]

theorem expandImm_of_one {m : BitVec 2} {imm : Imm16} (hm : m.toNat = 1) : expandImm m imm = some (immUnsigned imm) := by
  simp only [expandImm, hm]

theorem expandImm_of_two {m : BitVec 2} {imm : Imm16} (hm : m.toNat = 2) : expandImm m imm = some (immHigh imm) := by
  simp only [expandImm, hm]

theorem operand2Line_of_immediate {s : State} (hop : HasImmediateRow (instLine s)) (hI : fieldI (instLine s) = true) :
    operand2Line s = immLine (instLine s) := by
  have himm : (decoderLines s).isImm = true := by
    rw [decoderLines, decoderUnit, (hasImmFormat_iff _).mpr hop, hI]
    rfl
  rw [operand2Line, if_pos himm]
  rfl

theorem operand2Line_of_register {s : State} (hI : fieldI (instLine s) = false)
    (hst : (decoderLines s).controls.isSt = false) : operand2Line s = s.readReg (fieldRs2 (instLine s)) := by
  have himm : (decoderLines s).isImm = false := by
    rw [decoderLines, decoderUnit, hI]
    exact Bool.and_false _
  rw [operand2Line, himm, readAddr2, hst]
  rfl

/-- Every instruction but `ret` reads `x[rs1]` on the first port (R136). -/
theorem aluLines_eq {s : State} {c : Controls} (hc : (decoderLines s).controls = c) (hret : c.isRet = false) :
    aluLines s = aluUnit c.aluOp (s.readReg (fieldRs1 (instLine s))) (operand2Line s) := by
  rw [aluLines, readAddr1, hc, hret]
  rfl

/-- The format I rows of an opcode end, from `t`, as `K` of the expanded immediate (R57). -/
def ImmediateFormsEnd (t : State) (K : Word → Result) (i u h : Imm16 → Instr) : Prop :=
  ∀ imm, exec (i imm) t = K (immSigned imm) ∧ exec (u imm) t = K (immUnsigned imm) ∧ exec (h imm) t = K (immHigh imm)

section Rows

variable {s t : State} {K : Word → Result} {r : Reg → Instr} {i u h : Imm16 → Instr} {j : Instr}

theorem exec_of_decodeImm {w : Word} (hK : ImmediateFormsEnd t K i u h) (hd : decodeImm w i u h = .instr j) :
    exec j t = K (immLine w) := by
  obtain ⟨hsigned, hunsigned, hhigh⟩ := hK (fieldImm16 w)
  have hlt := (fieldModifier w).isLt
  obtain hm | hm | hm | hm : (fieldModifier w).toNat = 0 ∨ (fieldModifier w).toNat = 1 ∨ (fieldModifier w).toNat = 2 ∨
      (fieldModifier w).toNat = 3 := by omega
  all_goals
    simp only [decodeImm, hm] at hd
    cases hd
  · rw [immLine_of_expandImm (expandImm_of_zero hm), hsigned]
  · rw [immLine_of_expandImm (expandImm_of_one hm), hunsigned]
  · rw [immLine_of_expandImm (expandImm_of_two hm), hhigh]

/-- An instruction of an opcode with formats R and I has the second operand that is on the lines. -/
theorem exec_of_decodeAlu (hop : (fieldOpcode (instLine s)).toNat ≤ 12) (hst : (decoderLines s).controls.isSt = false)
    (hR : ∀ rs2, exec (r rs2) t = K (s.readReg rs2)) (hK : ImmediateFormsEnd t K i u h)
    (hd : decodeAlu (instLine s) r i u h = .instr j) : exec j t = K (operand2Line s) := by
  unfold decodeAlu at hd
  cases hI : fieldI (instLine s) with
  | true =>
    rw [hI, if_pos rfl] at hd
    rw [exec_of_decodeImm hK hd, operand2Line_of_immediate (.inl hop) hI]
  | false =>
    rw [hI, if_neg Bool.false_ne_true] at hd
    cases hd
    rw [hR, operand2Line_of_register hI hst]

theorem exec_of_decodeImmOnly (hop : (fieldOpcode (instLine s)).toNat = 14 ∨ (fieldOpcode (instLine s)).toNat = 15)
    (hK : ImmediateFormsEnd t K i u h) (hd : decodeImmOnly (instLine s) i u h = .instr j) :
    exec j t = K (operand2Line s) := by
  unfold decodeImmOnly at hd
  cases hI : fieldI (instLine s) with
  | true =>
    rw [hI, if_pos rfl] at hd
    rw [exec_of_decodeImm hK hd, operand2Line_of_immediate (.inr hop) hI]
  | false =>
    rw [hI, if_neg Bool.false_ne_true] at hd
    cases hd

end Rows

/-! ### The edge of each row of the control table (R135) -/

section Ends

variable (s : State)

/-- The end of the cycle of an ALU opcode whose second operand is `b`. -/
def aluEnd (op : AluOp) (b : Word) : Result :=
  writeAndAdvance (fieldRd (instLine s)) ((aluUnit (some op) (s.readReg (fieldRs1 (instLine s))) b).result.getD 0)
    s.countCycle

/-- The end of the cycle of a compare whose second operand is `b`. -/
def compareEnd (b : Word) : Result := compareAndAdvance (s.readReg (fieldRs1 (instLine s))) b s.countCycle

/-- The end of the cycle of a load whose second operand is `b`. -/
def loadEnd (b : Word) : Result :=
  loadWord (fieldRd (instLine s)) (aluAdd (s.readReg (fieldRs1 (instLine s))) b) s.countCycle

/-- The end of the cycle of a store whose second operand is `b`. -/
def storeEnd (b : Word) : Result :=
  storeWord (aluAdd (s.readReg (fieldRs1 (instLine s))) b) (s.readReg (fieldRd (instLine s))) s.countCycle

end Ends

/-- Loads and stores have the sum of their operands on the address lines (R138). -/
theorem aluResultLine_of_add {s : State} {c : Controls} (hc : (decoderLines s).controls = c) (hret : c.isRet = false)
    (hop : c.aluOp = some .add) :
    aluResultLine s = aluAdd (s.readReg (fieldRs1 (instLine s))) (operand2Line s) := by
  rw [aluResultLine, aluLines_eq hc hret, hop]
  rfl

section Edges

variable {s : State} {i : Instr} (hs : s.status = .running) (hf : s.fetchDecode = .ok i)
include hs hf

theorem edge_of_alu {op : AluOp} (hc : (decoderLines s).controls = { aluOp := some op, wb := true }) :
    aluEnd s op (operand2Line s) = .next (clockEdge s) := by
  rw [clockEdge_of_no_access hf hs hc rfl rfl, committed, writeAddr, writeBackLine, aluResultLine, aluLines_eq hc rfl, hc]
  rfl

theorem edge_of_compare (hc : (decoderLines s).controls = { aluOp := some .cmp, isCmp := true }) :
    compareEnd s (operand2Line s) = .next (clockEdge s) := by
  rw [clockEdge_of_no_access hf hs hc rfl rfl, committed, aluLines_eq hc rfl]
  rfl

theorem edge_of_load (hc : (decoderLines s).controls = { aluOp := some .add, wb := true, isLd := true }) :
    loadEnd s (operand2Line s) = .next (clockEdge s) := by
  have hfault := faultLine_of_access hf hc rfl
  rw [loadEnd, ← aluResultLine_of_add hc rfl rfl]
  cases ha : checkAccess .load (aluResultLine s) s.memSize with
  | none =>
    rw [loadWord_of_allowed (s := s.countCycle) ha, clockEdge_of_no_fault hs (hfault.trans ha), hc, committed, writeAddr,
      writeBackLine, hc]
    rfl
  | some c => rw [loadWord_of_fault (s := s.countCycle) ha, clockEdge_of_fault hs (hfault.trans ha)]

theorem edge_of_store (hc : (decoderLines s).controls = { aluOp := some .add, isSt := true }) :
    storeEnd s (operand2Line s) = .next (clockEdge s) := by
  have hfault := faultLine_of_access hf hc rfl
  rw [storeEnd, ← aluResultLine_of_add hc rfl rfl]
  cases ha : checkAccess .store (aluResultLine s) s.memSize with
  | none =>
    rw [storeWord_of_allowed (s := s.countCycle) ha, clockEdge_of_no_fault hs (hfault.trans ha), hc, committed, readAddr2,
      hc]
    rfl
  | some c => rw [storeWord_of_fault (s := s.countCycle) ha, clockEdge_of_fault hs (hfault.trans ha)]

theorem edge_of_beq (hc : (decoderLines s).controls = { isBeq := true }) :
    branchIf s.flags.e (boffOf (fieldOff27 (instLine s))) s.countCycle = .next (clockEdge s) := by
  rw [clockEdge_of_no_access hf hs hc rfl rfl, branchIf_eq, committed, nextPcLine]
  cases s.flags.e <;> rfl

theorem edge_of_bgt (hc : (decoderLines s).controls = { isBgt := true }) :
    branchIf s.flags.gt (boffOf (fieldOff27 (instLine s))) s.countCycle = .next (clockEdge s) := by
  rw [clockEdge_of_no_access hf hs hc rfl rfl, branchIf_eq, committed, nextPcLine]
  cases s.flags.gt <;> rfl

theorem edge_of_b (hc : (decoderLines s).controls = { isUbr := true }) :
    exec (.b (boffOf (fieldOff27 (instLine s)))) s.countCycle = .next (clockEdge s) := by
  rw [clockEdge_of_no_access hf hs hc rfl rfl]
  rfl

theorem edge_of_call (hc : (decoderLines s).controls = { wb := true, isUbr := true, isCall := true }) :
    exec (.call (boffOf (fieldOff27 (instLine s)))) s.countCycle = .next (clockEdge s) := by
  rw [clockEdge_of_no_access hf hs hc rfl rfl, committed, writeAddr, writeBackLine, hc]
  rfl

theorem edge_of_ret (hc : (decoderLines s).controls = { isUbr := true, isRet := true }) :
    exec .ret s.countCycle = .next (clockEdge s) := by
  rw [clockEdge_of_no_access hf hs hc rfl rfl, committed, nextPcLine, readAddr1, hc]
  rfl

theorem edge_of_nop (hc : (decoderLines s).controls = {}) : exec .nop s.countCycle = .next (clockEdge s) := by
  rw [clockEdge_of_no_access hf hs hc rfl rfl]
  rfl

theorem edge_of_hlt (hc : (decoderLines s).controls = { isHlt := true }) :
    exec .hlt s.countCycle = .next (clockEdge s) := by
  rw [clockEdge_of_no_access hf hs hc rfl rfl]
  rfl

/-- The instruction of an ALU opcode and the ALU's operation of that opcode have the same result. -/
theorem exec_eq_edge_of_alu {op : AluOp} {r : Reg → Instr} {iS iU iH : Imm16 → Instr}
    (hop : (fieldOpcode (instLine s)).toNat ≤ 12) (hc : (decoderLines s).controls = { aluOp := some op, wb := true })
    (hd : decodeAlu (instLine s) r iS iU iH = .instr i)
    (hR : ∀ rs2, exec (r rs2) s.countCycle = aluEnd s op (s.readReg rs2))
    (hI : ImmediateFormsEnd s.countCycle (aluEnd s op) iS iU iH) : exec i s.countCycle = .next (clockEdge s) :=
  (exec_of_decodeAlu hop (by rw [hc]) hR hI hd).trans (edge_of_alu hs hf hc)

/-- Opcode by opcode of R60 and R135: the instruction the word decodes to does what the control signals do. -/
theorem exec_eq_edge : exec i s.countCycle = .next (clockEdge s) := by
  have hd := decode_instLine hf
  obtain ⟨hu, -, -, -⟩ := decode_eq_instr hd
  have hlt := (fieldOpcode (instLine s)).isLt
  obtain ⟨n, hn⟩ : ∃ n, (fieldOpcode (instLine s)).toNat = n := ⟨_, rfl⟩
  have hc : (decoderLines s).controls = controlsOf (BitVec.ofNat 5 n) := by
    rw [controls_of_fetchDecode_ok hf, ← hn, BitVec.ofNat_toNat, BitVec.setWidth_eq]
  rw [UnknownWord, hn] at hu
  rw [hn] at hlt
  obtain halu | rfl | rfl | rfl | rfl | rfl | rfl | rfl | rfl | rfl | rfl :
      (n = 0 ∨ n = 1 ∨ n = 2 ∨ n = 3 ∨ n = 4 ∨ n = 6 ∨ n = 7 ∨ n = 8 ∨ n = 9 ∨ n = 10 ∨ n = 11 ∨ n = 12) ∨ n = 5 ∨
      n = 13 ∨ n = 14 ∨ n = 15 ∨ n = 16 ∨ n = 17 ∨ n = 18 ∨ n = 19 ∨ n = 20 ∨ n = 31 := by
    omega
  · obtain rfl | rfl | rfl | rfl | rfl | rfl | rfl | rfl | rfl | rfl | rfl | rfl := halu
    all_goals
      simp only [decode, hn] at hd
      exact exec_eq_edge_of_alu hs hf (by omega) hc hd (fun _ => rfl) fun _ => ⟨rfl, rfl, rfl⟩
  all_goals simp only [decode, hn] at hd
  · exact (exec_of_decodeAlu (K := compareEnd s) (by omega) (by rw [hc]; rfl) (fun _ => rfl)
      (fun _ => ⟨rfl, rfl, rfl⟩) hd).trans (edge_of_compare hs hf hc)
  · cases hd
    exact edge_of_nop hs hf hc
  · exact (exec_of_decodeImmOnly (K := loadEnd s) (.inl hn) (fun _ => ⟨rfl, rfl, rfl⟩) hd).trans
      (edge_of_load hs hf hc)
  · exact (exec_of_decodeImmOnly (K := storeEnd s) (.inr hn) (fun _ => ⟨rfl, rfl, rfl⟩) hd).trans
      (edge_of_store hs hf hc)
  · cases hd
    exact edge_of_beq hs hf hc
  · cases hd
    exact edge_of_bgt hs hf hc
  · cases hd
    exact edge_of_b hs hf hc
  · cases hd
    exact edge_of_call hs hf hc
  · cases hd
    exact edge_of_ret hs hf hc
  · cases hd
    exact edge_of_hlt hs hf hc

end Edges


end Sys2Proof.Machine
/-! ### The obligation -/

open Sys2Proof Sys2Proof.Machine

/-- Settles O15: a fault of fetch or decode is the first fault the control unit sees, and it latches only that; every other
cycle is the edge of its opcode's control signals (`exec_eq_edge`). -/
theorem datapathAgreesWithStep : Obligations.DatapathAgreesWithStep := by
  intro s hs
  have hclock : clock false s = clockEdge s := rfl
  rw [hclock]
  cases hf : s.fetchDecode with
  | ok i => rw [step_of_fetchDecode_ok hs hf, exec_eq_edge hs hf]
  | error c => rw [step_of_running hs, hf, clockEdge_of_fault hs (faultLine_of_fetchDecode_error hf)]

end

section
/-! PROOFS. The memory array (spec/20_memory.md R31, R40, R42) and program load (spec/70_reset_and_hazards.md R191): the
laws of a stored image, what a store leaves and what reads it back, then the statements O21, O26, O27, O29 and O30. -/

namespace Sys2Proof.Machine

/-! ### Byte order (R31) -/

theorem wordOfBytes_toNat (b0 b1 b2 b3 : Byte) :
    (wordOfBytes b0 b1 b2 b3).toNat = b0.toNat + 256 * b1.toNat + 65536 * b2.toNat + 16777216 * b3.toNat := by
  rw [wordOfBytes, toNat_append_eq_add, toNat_append_eq_add, toNat_append_eq_add]
  omega

/-! ### A stored image (R191) -/

/-- Storing an image leaves every byte outside it. -/
theorem Memory.read_writeWords_outside (m : Memory) {a b : Nat} (ws : List Word) (h : b < a ∨ a + 4 * ws.length ≤ b) :
    (m.writeWords a ws).read b = m.read b := by
  induction ws generalizing m a with
  | nil => rfl
  | cons w ws ih =>
    rw [List.length_cons] at h
    rw [Memory.writeWords, ih _ (by omega), Memory.read_writeWord_outside _ _ (by omega)]

theorem Memory.readWord_writeWords_outside (m : Memory) {a b : Nat} (ws : List Word)
    (h : b + 4 ≤ a ∨ a + 4 * ws.length ≤ b) : (m.writeWords a ws).readWord b = m.readWord b := by
  unfold Memory.readWord
  rw [Memory.read_writeWords_outside _ _ (by omega), Memory.read_writeWords_outside _ _ (by omega),
    Memory.read_writeWords_outside _ _ (by omega), Memory.read_writeWords_outside _ _ (by omega)]

/-- Word `i` of an image stored at `a` reads back at `a + 4 * i`: the words stored after it lie above it. -/
theorem Memory.readWord_writeWords {m : Memory} (hm : m.wf) (a : Nat) (ws : List Word) {i : Nat} (hi : i < ws.length) :
    (m.writeWords a ws).readWord (a + 4 * i) = ws[i] := by
  induction ws generalizing m a i with
  | nil => exact absurd hi (Nat.not_lt_zero i)
  | cons w ws ih =>
    rw [Memory.writeWords]
    cases i with
    | zero =>
      rw [Memory.readWord_writeWords_outside _ _ (by omega)]
      exact Memory.readWord_writeWord_self hm a w
    | succ i =>
      have hnext : a + 4 * (i + 1) = a + 4 + 4 * i := by omega
      rw [hnext, ih (Memory.wf_writeWord hm a w) (a + 4) (Nat.lt_of_succ_lt_succ hi), List.getElem_cons_succ]

/-- Storing an image that fits the memory lists no address outside it. -/
theorem Memory.writeWords_inRange {m : Memory} {a n : Nat} (ws : List Word) (hm : ∀ c ∈ m, c.1 < n)
    (ha : a + 4 * ws.length ≤ n) : ∀ c ∈ m.writeWords a ws, c.1 < n := by
  induction ws generalizing m a with
  | nil => exact hm
  | cons w ws ih =>
    rw [List.length_cons] at ha
    exact ih (Memory.writeWord_inRange w hm (by omega)) (by omega)

theorem Memory.wf_nil : Memory.wf [] := ⟨List.Pairwise.nil, fun _ hc => absurd hc List.not_mem_nil⟩

theorem loadProgram_of_fits {n : Nat} {image : List Word} (h : 4 * image.length ≤ n) :
    loadProgram n image = some { State.resetSized n with mem := Memory.writeWords [] Config.loadBase image } := if_pos h

theorem loadProgram_of_too_long {n : Nat} {image : List Word} (h : n < 4 * image.length) : loadProgram n image = none :=
  if_neg (Nat.not_le.mpr h)

/-- The machine after reset with a memory of the host's making (R191). -/
theorem inv_resetSized_with_mem {n : Nat} {m : Memory} (hn : Config.LegalMemSize n) (hm : m.wf)
    (hrange : ∀ c ∈ m, c.1 < n) : ({ State.resetSized n with mem := m } : State).Inv :=
  inv_of_not_faulted hn hm hrange (fun h => absurd h.1 Bool.false_ne_true) fun _ => Status.noConfusion

/-! ### What writes memory (R21, R117) -/

theorem exec_mem_of_not_store {i : Instr} {s t : State} (h : exec i s = .next t) (hi : i.instrClass ≠ .store) :
    t.mem = s.mem := by
  cases exec_next_effect h with
  | stored ea v ha hd hc => exact absurd hc hi
  | _ => rfl

theorem instrClass_of_dataAccess_load {i : Instr} {s : State} {ea : Word} (h : dataAccess i s = some (.load, ea)) :
    i.instrClass = .load := by
  cases i with
  | ld | ldu | ldh => rfl
  | _ => cases h

/-- A byte that an instruction changes belongs to the word of a store whose access is made. -/
theorem store_of_exec_changes_mem {i : Instr} {s t : State} {a : Nat} (h : exec i s = .next t)
    (hne : t.mem.read a ≠ s.mem.read a) :
    ∃ ea, dataAccess i s = some (.store, ea) ∧ checkAccess .store ea s.memSize = none ∧
      ea.toNat ≤ a ∧ a < ea.toNat + 4 := by
  have hstore : i.instrClass = .store :=
    by_contra fun hi => hne (congrArg (·.read a) (exec_mem_of_not_store h hi))
  cases hacc : dataAccess i s with
  | none => exact absurd hstore (instrClass_of_dataAccess_eq_none hacc).2
  | some access =>
    obtain ⟨k, ea⟩ := access
    obtain ⟨rfl, -⟩ | ⟨rfl, v, hx⟩ := exec_of_dataAccess hacc
    · exact absurd (hstore.symm.trans (instrClass_of_dataAccess_load hacc)) InstrClass.noConfusion
    · obtain ⟨hallowed, hend⟩ | ⟨c, -, hend⟩ := storeWord_cases ea v s
      · cases (hx.trans hend).symm.trans h
        have hin : ¬(a < ea.toNat ∨ ea.toNat + 4 ≤ a) := fun hout => hne (Memory.read_writeWord_outside s.mem v hout)
        exact ⟨ea, rfl, hallowed, by omega⟩
      · cases (hx.trans hend).symm.trans h
        exact absurd rfl hne

/-! ### A store and what reads it (R40, R42) -/

theorem exec_of_storeForm {i : Instr} {s : State} {rs rb : Reg} {imm : Imm16} {ea : Word}
    (hi : i = .st rs rb imm ∨ i = .stu rs rb imm ∨ i = .sth rs rb imm) (ha : dataAccess i s = some (.store, ea)) :
    exec i s = storeWord ea (s.readReg rs) s := by
  obtain rfl | rfl | rfl := hi <;>
  · cases ha
    rfl

theorem exec_of_loadForm {i : Instr} {s : State} {rd rb : Reg} {imm : Imm16} {ea : Word}
    (hi : i = .ld rd rb imm ∨ i = .ldu rd rb imm ∨ i = .ldh rd rb imm) (ha : dataAccess i s = some (.load, ea)) :
    exec i s = loadWord rd ea s := by
  obtain rfl | rfl | rfl := hi <;>
  · cases ha
    rfl

theorem writesReg_of_loadForm {i : Instr} {s : State} {rd rb : Reg} {imm : Imm16} {ea : Word}
    (hi : i = .ld rd rb imm ∨ i = .ldu rd rb imm ∨ i = .ldh rd rb imm) (ha : dataAccess i s = some (.load, ea))
    (haligned : ea.toNat % 4 = 0) (hbound : ea.toNat + 4 ≤ s.memSize) :
    WritesReg i s rd (s.mem.readWord ea.toNat) := by
  have hallowed : checkAccess .load ea s.memSize = none := (checkAccess_eq_none_iff ..).mpr ⟨haligned, hbound⟩
  exact writesReg_of_exec ((exec_of_loadForm hi ha).trans (loadWord_of_allowed hallowed))

/-- Different aligned words share no byte. -/
theorem words_disjoint_of_aligned {a b : Word} (ha : a.toNat % 4 = 0) (hb : b.toNat % 4 = 0) (hne : a ≠ b) :
    a.toNat + 4 ≤ b.toNat ∨ b.toNat + 4 ≤ a.toNat := by
  have hval : a.toNat ≠ b.toNat := fun h => hne (BitVec.eq_of_toNat_eq h)
  omega

end Sys2Proof.Machine

/-! ### The obligations -/

open Sys2Proof Sys2Proof.Machine

/-- Settles O21: the executed instruction made a store's access, and all bytes but those of its word stay
(`store_of_exec_changes_mem`); a fault of fetch or decode leaves memory. -/
theorem onlyStoresWriteMemory : Obligations.OnlyStoresWriteMemory := by
  intro s t a h hne
  obtain ⟨-, ⟨i, hf, hx⟩ | ⟨c, -, rfl⟩⟩ := step_next_cases h
  · obtain ⟨ea, hacc, hallowed, hlo, hhi⟩ := store_of_exec_changes_mem hx hne
    obtain ⟨haligned, hbound⟩ := (checkAccess_eq_none_iff ..).mp hallowed
    exact ⟨i, ea, hf, hacc, haligned, hbound, hlo, hhi⟩
  · exact absurd rfl hne

/-- Settles O26: the store leaves its word in canonical memory, where a load of the same address finds it; another aligned
word shares no byte with it. -/
theorem loadAfterStoreReturnsTheWord : Obligations.LoadAfterStoreReturnsTheWord := by
  intro s t i j rs rb rd ra imm imm' ea a hm hi hj hstore haligned hbound hx hload
  have hallowed : checkAccess .store ea s.memSize = none := (checkAccess_eq_none_iff ..).mpr ⟨haligned, hbound⟩
  cases ((exec_of_storeForm hi hstore).trans (storeWord_of_allowed hallowed)).symm.trans hx
  refine ⟨fun ha => ?_, fun hne ha hle => ?_⟩
  · subst ha
    have hw := writesReg_of_loadForm hj hload haligned hbound
    rwa [State.advance_mem, Memory.readWord_writeWord_self hm] at hw
  · have hw := writesReg_of_loadForm hj hload ha hle
    rwa [State.advance_mem, Memory.readWord_writeWord_outside _ _ (words_disjoint_of_aligned ha haligned hne)] at hw

/-- Settles O27: the pc of the store is aligned, so its access is made; the next fetch reads the stored word at `pc + 4`. -/
theorem storeIsFetchedByTheNextCycle : Obligations.StoreIsFetchedByTheNextCycle := by
  intro s i j rs rb imm hs hm hi hf hstore hbound hd
  obtain ⟨hfetch, -⟩ := (s.fetchDecode_eq_ok_iff i).mp hf
  obtain ⟨hpc, -⟩ := s.fetchable_iff.mp hfetch
  have haligned : (s.pc + 4).toNat % 4 = 0 := pcPlus4_aligned hpc
  have hallowed : checkAccess .store (s.pc + 4) s.memSize = none := (checkAccess_eq_none_iff ..).mpr ⟨haligned, hbound⟩
  have hx : exec i s.countCycle = storeWord (s.pc + 4) (s.readReg rs) s.countCycle := exec_of_storeForm hi hstore
  refine ⟨_, (step_of_fetchDecode_ok hs hf).trans (hx.trans (storeWord_of_allowed hallowed)), hs, rfl, ?_⟩
  refine step_of_fetchDecode_ok hs ((State.fetchDecode_eq_ok_iff ..).mpr ⟨?_, ?_⟩)
  · exact (State.fetchable_iff _).mpr ⟨haligned, hbound⟩
  · rw [State.advance_mem, State.advance_pc, State.countCycle_pc, State.countCycle_mem,
      Memory.readWord_writeWord_self hm, hd]

/-- Settles O29: a word is its bytes put together (`wordOfBytes_toNat`). -/
theorem wordsAreLittleEndian : Obligations.WordsAreLittleEndian := fun _ _ => wordOfBytes_toNat ..

/-- Settles O30: the image is stored into empty memory, word after word; what it does not reach reads as at reset. -/
theorem programLoadPlacesTheImage : Obligations.ProgramLoadPlacesTheImage := by
  refine fun n image => ⟨loadProgram_of_too_long, fun hfits => ⟨_, loadProgram_of_fits hfits, rfl, rfl, fun i hi => ?_,
    fun a ha => ?_, fun hn => ?_⟩⟩
  · have hw := Memory.readWord_writeWords Memory.wf_nil Config.loadBase image hi
    rwa [Config.loadBase, Nat.zero_add] at hw
  · exact Memory.read_writeWords_outside [] image (.inr (by rwa [Config.loadBase, Nat.zero_add]))
  · exact inv_resetSized_with_mem hn (Memory.wf_writeWords Memory.wf_nil _ image)
      (Memory.writeWords_inRange image (fun _ hc => absurd hc List.not_mem_nil) (by rwa [Config.loadBase, Nat.zero_add]))

end

section
/-! PROOFS. The registers an instruction writes and reads (spec/10_state.md R24): the states that agree but for one
register, the ends of instructions on such states, then the statements O22 and O23. -/

namespace Sys2Proof.Machine

/-! ### States that agree but for one register -/

/-- `u` has everything an instruction can read as `s` has it, but for the register `r`. -/
structure State.AgreesOff (r : Reg) (s u : State) : Prop where
  pc : u.pc = s.pc
  flags : u.flags = s.flags
  status : u.status = s.status
  mem : u.mem = s.mem
  memSize : u.memSize = s.memSize
  readReg : ∀ q, q ≠ r → u.readReg q = s.readReg q

theorem State.agreesOff_writeReg (s : State) (r : Reg) (v : Word) : s.AgreesOff r (s.writeReg r v) :=
  ⟨rfl, rfl, rfl, rfl, rfl, fun _ hq => s.writeReg_readReg_of_ne v hq⟩

namespace State.AgreesOff

variable {r : Reg} {s u : State}

theorem pcPlus4 (h : s.AgreesOff r u) : u.pcPlus4 = s.pcPlus4 := by rw [State.pcPlus4_eq, State.pcPlus4_eq, h.pc]

theorem branchTarget (h : s.AgreesOff r u) (boff : Word) : branchTarget u boff = branchTarget s boff := by
  rw [Machine.branchTarget, Machine.branchTarget, h.pcPlus4]

theorem jump (h : s.AgreesOff r u) (target : Word) : (s.jump target).AgreesOff r (u.jump target) :=
  { h with pc := rfl }

theorem advance (h : s.AgreesOff r u) : s.advance.AgreesOff r u.advance :=
  { h with pc := h.pcPlus4 }

theorem halt (h : s.AgreesOff r u) : s.halt.AgreesOff r u.halt :=
  { h with status := rfl }

theorem takeFault (h : s.AgreesOff r u) (c : FaultCause) : (s.takeFault c).AgreesOff r (u.takeFault c) :=
  { h with status := rfl }

theorem setFlags (h : s.AgreesOff r u) (f : Flags) : (s.setFlags f).AgreesOff r (u.setFlags f) :=
  { h with flags := rfl }

theorem setMem (h : s.AgreesOff r u) (m : Memory) :
    State.AgreesOff r { s with mem := m } { u with mem := m } :=
  { h with mem := rfl }

theorem writeReg (h : s.AgreesOff r u) (rd : Reg) (v : Word) : (s.writeReg rd v).AgreesOff r (u.writeReg rd v) where
  pc := h.pc
  flags := h.flags
  status := h.status
  mem := h.mem
  memSize := h.memSize
  readReg q hq := by
    by_cases hrd : q = rd
    · rw [hrd, State.writeReg_readReg_self, State.writeReg_readReg_self]
    · rw [State.writeReg_readReg_of_ne _ _ hrd, State.writeReg_readReg_of_ne _ _ hrd, h.readReg q hq]

end State.AgreesOff

/-! ### The ends of instructions on such states -/

/-- Both results are next states, and these agree but for the register `r`. -/
def ResultsAgreeOff (r : Reg) (x y : Result) : Prop := ∃ t u, x = .next t ∧ y = .next u ∧ t.AgreesOff r u

section Ends

variable {r : Reg} {s u : State} (h : s.AgreesOff r u)
include h

theorem writeAndAdvance_agreesOff (rd : Reg) {v w : Word} (hv : v = w) :
    ResultsAgreeOff r (writeAndAdvance rd v s) (writeAndAdvance rd w u) :=
  hv ▸ ⟨_, _, rfl, rfl, (h.writeReg rd v).advance⟩

theorem compareAndAdvance_agreesOff {a b c d : Word} (hf : compareFlags a b = compareFlags c d) :
    ResultsAgreeOff r (compareAndAdvance a b s) (compareAndAdvance c d u) :=
  ⟨_, _, rfl, rfl, hf ▸ (h.setFlags (compareFlags a b)).advance⟩

theorem jump_agreesOff {a b : Word} (ht : a = b) : ResultsAgreeOff r (.next (s.jump a)) (.next (u.jump b)) :=
  ht ▸ ⟨_, _, rfl, rfl, h.jump a⟩

theorem branchIf_agreesOff {c d : Bool} (hc : c = d) (boff : Word) :
    ResultsAgreeOff r (branchIf c boff s) (branchIf d boff u) := by
  rw [branchIf_eq, branchIf_eq]
  exact jump_agreesOff h (by rw [hc, h.branchTarget, h.pcPlus4])

theorem loadWord_agreesOff (rd : Reg) {a b : Word} (ha : a = b) :
    ResultsAgreeOff r (loadWord rd a s) (loadWord rd b u) := by
  subst ha
  have hcheck : checkAccess .load a u.memSize = checkAccess .load a s.memSize := by rw [h.memSize]
  cases hc : checkAccess .load a s.memSize with
  | none =>
    rw [loadWord_of_allowed hc, loadWord_of_allowed (hcheck.trans hc), h.mem]
    exact ⟨_, _, rfl, rfl, (h.writeReg rd _).advance⟩
  | some c =>
    rw [loadWord_of_fault hc, loadWord_of_fault (hcheck.trans hc)]
    exact ⟨_, _, rfl, rfl, h.takeFault c⟩

theorem storeWord_agreesOff {a b v w : Word} (ha : a = b) (hv : v = w) :
    ResultsAgreeOff r (storeWord a v s) (storeWord b w u) := by
  subst ha hv
  have hcheck : checkAccess .store a u.memSize = checkAccess .store a s.memSize := by rw [h.memSize]
  cases hc : checkAccess .store a s.memSize with
  | none =>
    rw [storeWord_of_allowed hc, storeWord_of_allowed (hcheck.trans hc), h.mem]
    exact ⟨_, _, rfl, rfl, (h.setMem _).advance⟩
  | some c =>
    rw [storeWord_of_fault hc, storeWord_of_fault (hcheck.trans hc)]
    exact ⟨_, _, rfl, rfl, h.takeFault c⟩

/-- An instruction that does not read `r` has the same operands in both states, so it ends the same way in both. -/
theorem exec_agreesOff {i : Instr} (hr : r ∉ i.sources) : ResultsAgreeOff r (exec i s) (exec i u) := by
  have hread : ∀ q ∈ i.sources, s.readReg q = u.readReg q := fun q hq =>
    (h.readReg q (ne_of_mem_of_not_mem hq hr)).symm
  cases i with
  | addR rd a b | subR rd a b | mulR rd a b | divR rd a b | modR rd a b | andR rd a b | orR rd a b | lslR rd a b
  | lsrR rd a b | asrR rd a b =>
    exact writeAndAdvance_agreesOff h rd
      (congrArg₂ _ (hread a (.head _)) (hread b (.tail _ (.head _))))
  | addI rd a | addu rd a | addh rd a | subI rd a | subu rd a | subh rd a | mulI rd a | mulu rd a | mulh rd a
  | divI rd a | divu rd a | divh rd a | modI rd a | modu rd a | modh rd a | andI rd a | andu rd a | andh rd a
  | orI rd a | oru rd a | orh rd a | lslI rd a | lslu rd a | lslh rd a | lsrI rd a | lsru rd a | lsrh rd a
  | asrI rd a | asru rd a | asrh rd a =>
    exact writeAndAdvance_agreesOff h rd (congrArg₂ _ (hread a (.head _)) rfl)
  | notR rd b | movR rd b => exact writeAndAdvance_agreesOff h rd (congrArg _ (hread b (.head _)))
  | notI rd | notu rd | noth rd | movI rd | movu rd | movh rd => exact writeAndAdvance_agreesOff h rd rfl
  | cmpR a b =>
    exact compareAndAdvance_agreesOff h
      (congrArg₂ _ (hread a (.head _)) (hread b (.tail _ (.head _))))
  | cmpI a | cmpu a | cmph a =>
    exact compareAndAdvance_agreesOff h (congrArg₂ _ (hread a (.head _)) rfl)
  | ld rd a | ldu rd a | ldh rd a =>
    exact loadWord_agreesOff h rd (congrArg₂ (· + ·) (hread a (.head _)) rfl)
  | st rd a | stu rd a | sth rd a =>
    exact storeWord_agreesOff h (congrArg₂ (· + ·) (hread a (.head _)) rfl)
      (hread rd (.tail _ (.head _)))
  | beq boff => exact branchIf_agreesOff h (congrArg Flags.e h.flags.symm) boff
  | bgt boff => exact branchIf_agreesOff h (congrArg Flags.gt h.flags.symm) boff
  | b boff => exact branchIf_agreesOff h rfl boff
  | call boff =>
    refine ⟨_, _, rfl, rfl, ?_⟩
    rw [h.pcPlus4, h.branchTarget]
    exact (h.writeReg _ _).jump _
  | nop => exact ⟨_, _, rfl, rfl, h.advance⟩
  | ret => exact jump_agreesOff h (hread _ (.head _))
  | hlt => exact ⟨_, _, rfl, rfl, h.halt⟩

end Ends

/-! ### The register an instruction writes -/

theorem exec_readReg_of_not_dest {i : Instr} {s t : State} {r : Reg} (h : exec i s = .next t) (hr : i.dest ≠ some r) :
    t.readReg r = s.readReg r := by
  cases exec_next_effect h with
  | wroteReg rd v hd =>
    have hne : r ≠ rd := fun he => hr (he ▸ hd)
    rw [State.advance_readReg, State.writeReg_readReg_of_ne _ _ hne]
  | called boff hi =>
    subst hi
    have hne : r ≠ Config.linkReg := fun he => hr (congrArg some he.symm)
    rw [State.jump_readReg, State.writeReg_readReg_of_ne _ _ hne]
  | _ => rfl

end Sys2Proof.Machine

/-! ### The obligations -/

open Sys2Proof Sys2Proof.Machine

/-- Settles O22: of the effects of an instruction only a written destination and `call`'s link touch a register. -/
theorem instructionsWriteOnlyTheirDestination : Obligations.InstructionsWriteOnlyTheirDestination :=
  fun _ _ _ _ h hr => exec_readReg_of_not_dest h hr

/-- Settles O23: the two start states agree but for `r`, and an instruction that does not read `r` keeps that
(`exec_agreesOff`). -/
theorem unreadRegistersDoNotMatter : Obligations.UnreadRegistersDoNotMatter := by
  intro i s t r v hr h
  obtain ⟨t', u, ht, hu, hagree⟩ := exec_agreesOff (s.agreesOff_writeReg r v) hr
  cases ht.symm.trans h
  exact ⟨u, hu, hagree.pc, hagree.flags, hagree.status, hagree.mem, hagree.readReg⟩

end

section
/-! PROOFS. The cycle (spec/50_core_units.md R140, spec/60_exceptions.md R160), the state after reset and its invariant
(spec/10_state.md R18, R23), and the host's loop (spec/70_reset_and_hazards.md R192, R193): the statements O9, O10, O14,
O17, O28 and O32. -/

namespace Sys2Proof.Machine

/-! ### A cycle whose fetch or decode fails (R140, R165) -/

theorem step_of_fetchDecode_error {s : State} {c : FaultCause} (hs : s.status = .running) (hf : s.fetchDecode = .error c) :
    step s = .next (s.countCycle.takeFault c) := by
  rw [step_of_running hs, hf]

/-! ### The state after reset (R23) -/

theorem inv_resetSized {n : Nat} (hn : Config.LegalMemSize n) : (State.resetSized n).Inv :=
  inv_resetSized_with_mem hn Memory.wf_nil fun _ hc => absurd hc List.not_mem_nil

/-! ### The host's loop is deterministic (R192, R193) -/

/-- Each rule of the loop is an equation of `run`. -/
theorem HostRun.eq_run {m : Nat} {s : State} {r : RunReport} (h : HostRun (some m) s r) : r = run m s := by
  induction h with
  | terminal s hs => exact (run_of_not_running hs m).symm
  | limit s n hs hn hle =>
    cases hn
    rw [run_of_bound_le hle, reportOf_of_running hs]
  | cycle s t r hs hlt ht _ ih => rw [ih, run_of_step (hlt m rfl) ht]

/-- A loop with no bound ends in a terminal state only. -/
theorem HostRun.reason_ne_limit_of_unbounded {s : State} {r : RunReport} (h : HostRun none s r) :
    r.reason ≠ .cycleLimitExceeded := by
  induction h with
  | terminal s hs => exact mt (stopReason_eq_cycleLimitExceeded_iff s.status).mp hs
  | limit s n _ hn => cases hn
  | cycle s t r _ _ _ _ ih => exact ih

theorem HostRun.start_cycles_le {bound : Option Nat} {s : State} {r : RunReport} (h : HostRun bound s r) :
    s.cycles ≤ r.cycles := by
  induction h with
  | terminal s | limit s => exact Nat.le_refl s.cycles
  | cycle s t r _ _ ht _ ih =>
    rw [step_cycles ht] at ih
    exact Nat.le_of_succ_le ih

/-- A bound that a run does not pass does not cut it short. -/
theorem HostRun.bounded_of_unbounded {m : Nat} {s : State} {r : RunReport} (h : HostRun none s r) (hm : r.cycles ≤ m) :
    HostRun (some m) s r := by
  induction h with
  | terminal s hs => exact .terminal s hs
  | limit s n _ hn => cases hn
  | cycle s t r hs _ ht hrun ih =>
    have hlt : s.cycles < m := calc
      s.cycles < t.cycles := by rw [step_cycles ht]; exact Nat.lt_succ_self _
      _ ≤ r.cycles := hrun.start_cycles_le
      _ ≤ m := hm
    exact .cycle s t r hs (fun n hn => Option.some.inj hn ▸ hlt) ht (ih hm)

/-- A bounded run that does not end at its bound never met it. -/
theorem HostRun.unbounded_of_ne_limit {bound : Option Nat} {s : State} {r : RunReport} (h : HostRun bound s r)
    (hr : r.reason ≠ .cycleLimitExceeded) : HostRun none s r := by
  induction h with
  | terminal s hs => exact .terminal s hs
  | limit => exact absurd rfl hr
  | cycle s t r hs _ ht _ ih => exact .cycle s t r hs (fun _ hn => nomatch hn) ht (ih hr)

end Sys2Proof.Machine

/-! ### The obligations -/

open Sys2Proof Sys2Proof.Machine

/-- Settles O14: every effect of an instruction is a next state, and so is a taken fault of fetch or decode. -/
theorem everyRunningCycleCompletes : Obligations.EveryRunningCycleCompletes := by
  refine ⟨fun s hs => exists_step_of_running hs, fun i s => ?_⟩
  obtain ⟨t, ht, -⟩ := exec_effect i s
  exact ⟨t, ht⟩

/-- Settles O32: the loop ends with `run`'s report (`hostRun_run`) and with no other (`HostRun.eq_run`); a run with no bound
is the run bounded by its own count. -/
theorem runIsTheHostLoop : Obligations.RunIsTheHostLoop := by
  refine ⟨fun m s r => ⟨HostRun.eq_run, ?_⟩, fun s r => ⟨fun h => ?_, ?_⟩⟩
  · rintro rfl
    exact hostRun_run m s
  · exact ⟨r.cycles, h.start_cycles_le, (h.bounded_of_unbounded le_rfl).eq_run, h.reason_ne_limit_of_unbounded⟩
  · rintro ⟨m, -, rfl, hr⟩
    exact (hostRun_run m s).unbounded_of_ne_limit hr

/-- Settles O9: an aligned pc in range is fetched from, so fetch and decode answer `i`. -/
theorem stepRunsTheDecodedInstruction : Obligations.StepRunsTheDecodedInstruction := by
  intro s i hs haligned hbound hd
  have hfetch : s.fetchable = true := s.fetchable_iff.mpr ⟨haligned, hbound⟩
  exact step_of_fetchDecode_ok hs ((s.fetchDecode_eq_ok_iff i).mpr ⟨hfetch, hd⟩)

/-- Settles O10: the access check names the fault of a fetch, and a fetched word that does not decode names its own. -/
theorem fetchAndDecodeFaultsAreTaken : Obligations.FetchAndDecodeFaultsAreTaken := by
  intro s hs
  refine ⟨fun hunaligned => ?_, fun haligned hbound => ?_, fun haligned hbound w hw => ?_⟩
  · exact step_of_fetch_fault hs ((checkAccess_eq_some_iff ..).mpr (.inl ⟨hunaligned, rfl⟩))
  · exact step_of_fetch_fault hs ((checkAccess_eq_some_iff ..).mpr (.inr ⟨haligned, hbound, rfl⟩))
  · subst hw
    have hfetch : s.fetchable = true := s.fetchable_iff.mpr ⟨haligned, hbound⟩
    refine ⟨fun hd => ?_, fun hd => ?_⟩
    · exact step_of_fetchDecode_error hs ((s.fetchDecode_eq_error_iff _).mpr (.inr ⟨hfetch, .inl ⟨rfl, hd⟩⟩))
    · exact step_of_fetchDecode_error hs ((s.fetchDecode_eq_error_iff _).mpr (.inr ⟨hfetch, .inr ⟨rfl, hd⟩⟩))

/-- Settles O17: memory is empty, the flags are clear and no fault is on record after reset, and 4096 is a legal size. -/
theorem resetMeetsTheMachineInvariant : Obligations.ResetMeetsTheMachineInvariant :=
  ⟨fun _ => inv_resetSized, inv_resetSized (by decide)⟩

/-- Settles O28: status by status, each function of the record is the table's row. -/
theorem statusCodesAreAsListed : Obligations.StatusCodesAreAsListed := by
  refine ⟨fun s => ?_, fun _ => rfl, fun _ => ⟨rfl, rfl, rfl, rfl, rfl, rfl⟩, fun _ _ => ⟨rfl, rfl, rfl, rfl, rfl, rfl⟩,
    rfl, rfl, rfl⟩
  cases s with
  | running | halted | faulted c => simp [Status.tag, Status.haltedFlag, Status.reason]

end
